-- ==== Sys2Proof/Word.lean ====
section
/-! DEFINITION. The word and byte types of the machine (spec/00_scope.md R10, R12). -/

namespace Sys2Proof

/-- A register value, an address in a bank or a memory word: 16 bits, unsigned (R10 `XLEN`, R12). -/
abbrev Word := BitVec 16

/-- A memory cell (R12, spec/20_memory.md R50). -/
abbrev Byte := BitVec 8

/-- A bank number 0..3; a field of `CR` holds one (spec/10_state.md R31). -/
abbrev Bank := BitVec 2

end Sys2Proof
end

