-- ==== Sys2Proof/Config.lean ====
section
/-! DEFINITION. What is fixed for a run: the parameters of spec/00_scope.md R10, the hook of R8, and the one free value. -/

namespace Sys2Proof

/-- The two positions of the bank field in `CR` that the source admits (spec/10_state.md R31, decision D1). -/
inductive BankPlacement where
  /-- `BANK_LSB = 14`: the field is `CR[15:14]`, the spec's choice. -/
  | bits15to14
  /-- `BANK_LSB = 12`: the field is `CR[13:12]`, the only alternative. -/
  | bits13to12
  deriving DecidableEq, Repr

/-- `BANK_LSB` (R10): the low bit of the bank field. -/
def BankPlacement.lsb : BankPlacement → Nat
  | .bits15to14 => 14
  | .bits13to12 => 12

/-- The configuration record of R10, with the hook input of R8. No step changes it. -/
structure Config where
  /-- `BANK_LSB` (R10, R31). -/
  bankPlacement : BankPlacement
  /-- `GIE_BIT` (R10): the bit of `CR` that enables interrupts (spec/10_state.md R30). -/
  gieBit : Nat
  /-- `TIE_BIT0` (R10): timer 0's enable bit in `CR`; timer i uses the bit i above it (R32). -/
  tieBit0 : Nat
  /-- `VECTOR_BASE` (R10): the offset in bank 1 of timer 0's vector slot (spec/60_exceptions.md R192). -/
  vectorBase : Word
  /-- `VECTOR_STRIDE` (R10): the bytes between two vector slots. -/
  vectorStride : Word
  /-- `SPXL_EVEN_HIGH` (R10): SPXL writes an even pixel index to the high nibble (spec/42_load_store.md R143). -/
  spxlEvenHigh : Bool
  /-- `hook_present` (R8, spec/10_state.md R42 b): whether a breakpoint hook is registered. -/
  hookPresent : Bool
  /-- `RESET_CR` (R10). -/
  resetCr : Word
  /-- `RESET_SP` (R10). -/
  resetSp : Word
  /-- `RESET_IP` (R10). -/
  resetIp : Word
  /-- `RESET_W` (R10). -/
  resetW : Word
  deriving DecidableEq, Repr

/-- The values R10 gives. DESIGN CHOICE: no hook (log 11). -/
def Config.micro16 : Config where
  bankPlacement := .bits15to14
  gieBit := 3
  tieBit0 := 8
  vectorBase := 0x7D00#16
  vectorStride := 4#16
  spxlEvenHigh := true
  hookPresent := false
  resetCr := 0x9000#16
  resetSp := 0x8000#16
  resetIp := 0x0000#16
  resetW := 0x0000#16

/-- The configuration has the literals R10 gives for the control bits and the vector table. The position of the bank
field, the pixel order and the hook stay open. -/
abbrev Config.literals (c : Config) : Prop :=
  c.gieBit = 3 ∧ c.tieBit0 = 8 ∧ c.vectorBase = 0x7D00#16 ∧ c.vectorStride = 4#16

/-- `CODE_BANK` (R10): the bank the fetch unit reads (spec/20_memory.md R58). -/
def Config.codeBank : Bank := 0#2

/-- `MMIO_BANK` (R10): the bank of the vector table and of SPXL (spec/20_memory.md R50). -/
def Config.mmioBank : Bank := 1#2

/-- `BANK_SIZE` (R10): bytes per bank. -/
def Config.bankSize : Nat := 65536

/-- `NBANKS` (R10). -/
def Config.nbanks : Nat := 4

/-- `ILEN` (R10): bytes per instruction, every instruction. -/
def Config.ilen : Word := 2#16

/-- The free value of spec/93_implementation_defined.md U5: what `running` is after an IllegalOpcode. Nothing
constrains it (log 8). -/
opaque Config.runningAfterFault : Nat → Bool

end Sys2Proof
end

