-- ==== Sys2Proof/Syntax.lean ====
section
/-! DEFINITION. The instructions: one constructor per row of spec/opcode_table.json (spec/30_encoding.md R90). -/

namespace Sys2Proof

/-- The general registers a selector names (spec/10_state.md R21). -/
inductive Reg where
  | w0 | w1 | w2 | w3
  deriving DecidableEq, Repr

/-- The interrupt sources (spec/60_exceptions.md R184). -/
inductive Timer where
  | timer0 | timer1
  deriving DecidableEq, Repr

/-- An instruction with the operand fields of its format (R82 to R88), in the order of the table's row.
Numbers that are no register and no timer are plain naturals; WellFormed holds them to their field (R93, R97). -/
inductive Instr where
  | nop
  | add (cc aa bb : Reg)
  | sub (cc aa bb : Reg)
  | and (cc aa bb : Reg)
  | or (cc aa bb : Reg)
  | xor (cc aa bb : Reg)
  | inc (aa : Reg)
  | dec (aa : Reg)
  | set (aa : Reg) (yy xxxx : Nat)
  | clr (aa : Reg)
  | not (aa : Reg)
  | ld (aa bb : Reg)
  | st (aa bb : Reg)
  | cpy (aa bb : Reg)
  | push (aa : Reg)
  | pop (aa : Reg)
  | peek (aa : Reg) (xx : Nat)
  | csp (aa : Reg) (xx : Nat)
  | spxl (aa bb : Reg)
  | jmp (aa : Reg)
  | bre (cc aa bb : Reg)
  | brne (cc aa bb : Reg)
  | brl (cc aa bb : Reg)
  | brh (cc aa bb : Reg)
  | call (aa : Reg)
  | ret
  | reti
  | brnz (aa cc : Reg)
  | dai
  | eai
  | dti (a : Timer)
  | eti (a : Timer)
  | selb (aa : Nat)
  | brk
  | hlt
  deriving DecidableEq, Repr

end Sys2Proof
end

