-- ==== Sys2Proof/WellFormed.lean ====
section
/-! DEFINITION. Which instruction terms an encoding exists for: every number fits its field (spec/30_encoding.md R93, R97). -/

namespace Sys2Proof

/-- Every number of the instruction is a value of its field: nibble index 0..3, immediate 0..15, stack offset 0..63,
bank number 0..3 (R89, R93). The assembler rejects any other (R97). Registers and timers are in range by their type. -/
def Instr.wellFormed : Instr → Bool
  | .set _ yy xxxx => decide (yy < 4) && decide (xxxx < 16)
  | .peek _ xx => decide (xx < 64)
  | .csp _ xx => decide (xx < 64)
  | .selb aa => decide (aa < 4)
  | .nop | .add _ _ _ | .sub _ _ _ | .and _ _ _ | .or _ _ _ | .xor _ _ _ => true
  | .inc _ | .dec _ | .clr _ | .not _ => true
  | .ld _ _ | .st _ _ | .cpy _ _ | .spxl _ _ => true
  | .push _ | .pop _ => true
  | .jmp _ | .bre _ _ _ | .brne _ _ _ | .brl _ _ _ | .brh _ _ _ => true
  | .call _ | .ret | .reti | .brnz _ _ => true
  | .dai | .eai | .dti _ | .eti _ | .brk | .hlt => true

end Sys2Proof
end

