-- ==== Sys2Proof/Decode.lean ====
section
/-! DEFINITION. The decoder, total on any word and any bytes, and the encoder (spec/30_encoding.md R80 to R94). -/

namespace Sys2Proof

/-- Bits 15:8 of a word (R80; spec/20_memory.md R53). -/
def hiByte (w : Word) : Byte := w.extractLsb' 8 8

/-- Bits 7:0 of a word (R80; spec/20_memory.md R53). -/
def loByte (w : Word) : Byte := w.extractLsb' 0 8

/-- `hi ++ lo`: the word whose byte at the lower address is `hi` (spec/20_memory.md R52). -/
def joinBytes (hi lo : Byte) : Word := hi ++ lo

/-- The register a 2-bit selector names: value i names Wi (spec/10_state.md R21). -/
def Reg.ofBits (b : BitVec 2) : Reg :=
  if b = 0#2 then .w0 else if b = 1#2 then .w1 else if b = 2#2 then .w2 else .w3

/-- The 2-bit selector of a register (spec/10_state.md R21). -/
def Reg.bits : Reg → BitVec 2
  | .w0 => 0#2
  | .w1 => 1#2
  | .w2 => 2#2
  | .w3 => 3#2

/-- The timer a 1-bit selector names (R88, R89). -/
def Timer.ofBits (b : BitVec 1) : Timer := if b = 0#1 then .timer0 else .timer1

/-- The 1-bit selector of a timer (R88). -/
def Timer.bits : Timer → BitVec 1
  | .timer0 => 0#1
  | .timer1 => 1#1

/-- A timer's id (spec/60_exceptions.md R184). -/
def Timer.id : Timer → Nat
  | .timer0 => 0
  | .timer1 => 1

/-- `b[5:4]` as a register: field cc of format R3 (R83). -/
def regAt4 (b : Byte) : Reg := .ofBits (b.extractLsb' 4 2)

/-- `b[3:2]` as a register: field aa of formats R3 and R2 (R83, R85). -/
def regAt2 (b : Byte) : Reg := .ofBits (b.extractLsb' 2 2)

/-- `b[1:0]` as a register: field aa of format R1, bb of R3 and R2, cc of BRNZ (R83, R84, R85). -/
def regAt0 (b : Byte) : Reg := .ofBits (b.extractLsb' 0 2)

/-- `b[7:6]` as a register: field aa of formats S and O (R86, R87). -/
def regAt6 (b : Byte) : Reg := .ofBits (b.extractLsb' 6 2)

/-- `b[0]` as a timer: field a of format T (R88). -/
def timerAt0 (b : Byte) : Timer := .ofBits (b.extractLsb' 0 1)

/-- `b[lo+n-1 : lo]` as a number: yy and xxxx of format S, xx of format O, the bank number of SELB (R84, R86, R87). -/
def numberAt (lo n : Nat) (b : Byte) : Nat := (b.extractLsb' lo n).toNat

/-- Why the decoder refuses its input. -/
inductive DecodeReject where
  /-- The opcode byte is none of the 35 of R90 (R92). -/
  | illegalOpcode (op : Byte)
  /-- Fewer than two bytes are given (R80). -/
  | truncated
  deriving DecidableEq, Repr

/-- The instruction of a 16-bit word: selected by the opcode byte alone, operand bits the format does not use ignored
(R81, R90, R94). Every other opcode byte is illegal (R92). -/
def decodeWord (w : Word) : Except DecodeReject Instr :=
  let b := loByte w
  match (hiByte w).toNat with
  | 0x00 => .ok .nop
  | 0x01 => .ok (.add (regAt4 b) (regAt2 b) (regAt0 b))
  | 0x02 => .ok (.sub (regAt4 b) (regAt2 b) (regAt0 b))
  | 0x03 => .ok (.and (regAt4 b) (regAt2 b) (regAt0 b))
  | 0x04 => .ok (.or (regAt4 b) (regAt2 b) (regAt0 b))
  | 0x05 => .ok (.xor (regAt4 b) (regAt2 b) (regAt0 b))
  | 0x06 => .ok (.inc (regAt0 b))
  | 0x07 => .ok (.dec (regAt0 b))
  | 0x08 => .ok (.set (regAt6 b) (numberAt 4 2 b) (numberAt 0 4 b))
  | 0x0A => .ok (.clr (regAt0 b))
  | 0x0B => .ok (.not (regAt0 b))
  | 0x41 => .ok (.ld (regAt2 b) (regAt0 b))
  | 0x42 => .ok (.st (regAt2 b) (regAt0 b))
  | 0x43 => .ok (.cpy (regAt2 b) (regAt0 b))
  | 0x48 => .ok (.push (regAt0 b))
  | 0x49 => .ok (.pop (regAt0 b))
  | 0x4A => .ok (.peek (regAt6 b) (numberAt 0 6 b))
  | 0x4B => .ok (.csp (regAt6 b) (numberAt 0 6 b))
  | 0x4C => .ok (.spxl (regAt2 b) (regAt0 b))
  | 0x80 => .ok (.jmp (regAt0 b))
  | 0x82 => .ok (.bre (regAt4 b) (regAt2 b) (regAt0 b))
  | 0x83 => .ok (.brne (regAt4 b) (regAt2 b) (regAt0 b))
  | 0x84 => .ok (.brl (regAt4 b) (regAt2 b) (regAt0 b))
  | 0x85 => .ok (.brh (regAt4 b) (regAt2 b) (regAt0 b))
  | 0x86 => .ok (.call (regAt0 b))
  | 0x87 => .ok .ret
  | 0x88 => .ok .reti
  | 0x89 => .ok (.brnz (regAt2 b) (regAt0 b))
  | 0xC0 => .ok .dai
  | 0xC1 => .ok .eai
  | 0xC2 => .ok (.dti (timerAt0 b))
  | 0xC3 => .ok (.eti (timerAt0 b))
  | 0xC4 => .ok (.selb (numberAt 0 2 b))
  | 0xFE => .ok .brk
  | 0xFF => .ok .hlt
  | _ => .error (.illegalOpcode (hiByte w))

/-- The instruction at the front of a byte string and the bytes behind it: opcode byte first (R80). -/
def decodeBytes : List Byte → Except DecodeReject (Instr × List Byte)
  | op :: b :: rest =>
    match decodeWord (joinBytes op b) with
    | .ok i => .ok (i, rest)
    | .error r => .error r
  | _ => .error .truncated

/-- The instruction the decoder reads from `w`, whose bit 0 is `instr[0]` of spec/opcode_table.json: the two bytes as
the hardware stores them, high byte at the lower address (R80). Bits at or above `nbits` are 0. -/
def decodeTableWord (nbits w : Nat) : Option Instr :=
  let x := w % 2 ^ nbits
  match decodeBytes [BitVec.ofNat 8 (x / 256), BitVec.ofNat 8 x] with
  | .ok (i, _) => some i
  | .error _ => none

/-- The opcode byte of R90. -/
def Instr.opcode : Instr → Byte
  | .nop => 0x00#8
  | .add _ _ _ => 0x01#8
  | .sub _ _ _ => 0x02#8
  | .and _ _ _ => 0x03#8
  | .or _ _ _ => 0x04#8
  | .xor _ _ _ => 0x05#8
  | .inc _ => 0x06#8
  | .dec _ => 0x07#8
  | .set _ _ _ => 0x08#8
  | .clr _ => 0x0A#8
  | .not _ => 0x0B#8
  | .ld _ _ => 0x41#8
  | .st _ _ => 0x42#8
  | .cpy _ _ => 0x43#8
  | .push _ => 0x48#8
  | .pop _ => 0x49#8
  | .peek _ _ => 0x4A#8
  | .csp _ _ => 0x4B#8
  | .spxl _ _ => 0x4C#8
  | .jmp _ => 0x80#8
  | .bre _ _ _ => 0x82#8
  | .brne _ _ _ => 0x83#8
  | .brl _ _ _ => 0x84#8
  | .brh _ _ _ => 0x85#8
  | .call _ => 0x86#8
  | .ret => 0x87#8
  | .reti => 0x88#8
  | .brnz _ _ => 0x89#8
  | .dai => 0xC0#8
  | .eai => 0xC1#8
  | .dti _ => 0xC2#8
  | .eti _ => 0xC3#8
  | .selb _ => 0xC4#8
  | .brk => 0xFE#8
  | .hlt => 0xFF#8

/-- Format N: no operand, the unused bits as the assembler emits them, 0 (R81, R82). -/
def operandN : Byte := 0#8

/-- Format R3: `--ccaabb` (R83). -/
def operandR3 (cc aa bb : Reg) : Byte := 0#2 ++ cc.bits ++ aa.bits ++ bb.bits

/-- Format R1: `------aa` (R84). -/
def operandR1 (aa : BitVec 2) : Byte := 0#6 ++ aa

/-- Format R2: `----aabb`, and `----aacc` of BRNZ (R85). -/
def operandR2 (aa bb : Reg) : Byte := 0#4 ++ aa.bits ++ bb.bits

/-- Format S: `aayyxxxx` (R86). -/
def operandS (aa : Reg) (yy xxxx : Nat) : Byte := aa.bits ++ BitVec.ofNat 2 yy ++ BitVec.ofNat 4 xxxx

/-- Format O: `aaxxxxxx` (R87). -/
def operandO (aa : Reg) (xx : Nat) : Byte := aa.bits ++ BitVec.ofNat 6 xx

/-- Format T: `-------a` (R88). -/
def operandT (a : Timer) : Byte := 0#7 ++ a.bits

/-- The operand byte of an instruction, in its format (R82 to R88, R90). -/
def Instr.operand : Instr → Byte
  | .nop | .ret | .reti | .dai | .eai | .brk | .hlt => operandN
  | .add cc aa bb | .sub cc aa bb | .and cc aa bb | .or cc aa bb | .xor cc aa bb => operandR3 cc aa bb
  | .bre cc aa bb | .brne cc aa bb | .brl cc aa bb | .brh cc aa bb => operandR3 cc aa bb
  | .inc aa | .dec aa | .clr aa | .not aa | .jmp aa | .call aa | .push aa | .pop aa => operandR1 aa.bits
  | .selb aa => operandR1 (BitVec.ofNat 2 aa)
  | .ld aa bb | .st aa bb | .cpy aa bb | .spxl aa bb => operandR2 aa bb
  | .brnz aa cc => operandR2 aa cc
  | .set aa yy xxxx => operandS aa yy xxxx
  | .peek aa xx | .csp aa xx => operandO aa xx
  | .dti a | .eti a => operandT a

/-- The word of an instruction: opcode in bits 15:8, operand byte in bits 7:0 (R80). -/
def encodeWord (i : Instr) : Word := joinBytes i.opcode i.operand

/-- The bytes of an instruction as they stand in memory: opcode byte, then operand byte (R80). -/
def encode (i : Instr) : List Byte := [i.opcode, i.operand]

end Sys2Proof
end

