-- ==== Sys2Proof/Machine/State.lean ====
section
/-! DEFINITION. The state of the machine as plain data, why a step can stop, and the state after reset
(spec/10_state.md R20, R43, R44; spec/70_reset_and_hazards.md R220). -/

namespace Sys2Proof.Machine

/-- The four banks: the bytes that differ from what an unlisted cell reads as, keys strictly rising (`Memory.wf`).
The key of offset `a` in bank `b` is `65536 * b + a`. -/
abbrev Memory := List Host.Cell

/-- The snapshot the host reads: `{running, IP, CR, SP, W0, W1, W2, W3}` (spec/10_state.md R45). -/
structure Snapshot where
  running : Bool
  ip : Word
  cr : Word
  sp : Word
  w0 : Word
  w1 : Word
  w2 : Word
  w3 : Word
  deriving DecidableEq, Repr

/-- What an IllegalOpcode records: the illegal word and `{IP, CR, SP, W0..W3}` at that moment
(spec/60_exceptions.md R181; `running` is not in it, log 9). -/
structure IllegalOpcodeRecord where
  instr : Word
  ip : Word
  cr : Word
  sp : Word
  w0 : Word
  w1 : Word
  w2 : Word
  w3 : Word
  deriving DecidableEq, Repr

/-- What another agent than the core does (spec/00_scope.md R5). -/
inductive Event where
  /-- One firing of a timer (spec/60_exceptions.md R186). -/
  | tick (i : Timer)
  /-- The host requests a halt (spec/60_exceptions.md R207). -/
  | forceHalt
  deriving DecidableEq, Repr

/-- The outside events of one instruction cycle, oldest first, in the two places where one can fall (spec/00_scope.md R7). -/
structure CycleInputs where
  /-- Between ADVANCE of the cycle before and the running test and POLL of this one. -/
  beforePoll : List Event
  /-- Between POLL and FETCH. -/
  beforeExec : List Event
  deriving DecidableEq, Repr

/-- The whole state (spec/10_state.md R20), with the configuration of the run and three fields of the model's own. -/
structure State where
  /-- The configuration of the run (spec/00_scope.md R10; log 1). -/
  cfg : Config
  w0 : Word
  w1 : Word
  w2 : Word
  w3 : Word
  /-- Instruction pointer (R24). -/
  ip : Word
  /-- Control register (R29). -/
  cr : Word
  /-- Stack pointer (R35). -/
  sp : Word
  /-- The four banks (R38). -/
  mem : Memory
  /-- The pending pair: `none` is `pending = false`, `some i` is `pending = true` with `trig_id = i` (R39; log 10). -/
  pending : Option Timer
  /-- The run flag (R40). -/
  running : Bool
  /-- The fault latch (R41). -/
  fault : Option IllegalOpcodeRecord
  /-- The model's own: the `brk` events emitted so far, newest first (spec/00_scope.md R8; log 12). -/
  brkEvents : List Snapshot
  /-- The model's own: the outside events of the cycles to come; past its end none arrives (log 4). -/
  inputs : List CycleInputs
  /-- The model's own: which free value is taken next (log 8). -/
  freeIndex : Nat
  deriving DecidableEq, Repr

/-- Why the machine stops. -/
inductive Fault where
  /-- An earlier cycle raised IllegalOpcode, so the core executes no further cycle (spec/60_exceptions.md R181).
  Raised by `step` in a state whose fault latch is set. Safe: the spec gives such a core no next cycle. -/
  | illegalOpcode (r : IllegalOpcodeRecord)
  deriving DecidableEq, Repr

/-- Why an instruction has no meaning here. -/
inductive Refusal where
  /-- The instruction's meaning is not written. Raised by `exec`'s refused arms; none is left. Safe. -/
  | notModelled (mnemonic : String)
  deriving DecidableEq, Repr

/-- What a step answers. -/
abbrev Result := Host.Outcome State Fault Refusal

/-- The registers, latches and flags after reset in configuration `cfg`, around a memory (spec/70_reset_and_hazards.md R220). -/
def State.resetWith (cfg : Config) (mem : Memory) : State where
  cfg := cfg
  w0 := cfg.resetW
  w1 := cfg.resetW
  w2 := cfg.resetW
  w3 := cfg.resetW
  ip := cfg.resetIp
  cr := cfg.resetCr
  sp := cfg.resetSp
  mem := mem
  pending := none
  running := true
  fault := none
  brkEvents := []
  inputs := []
  freeIndex := 0

/-- The state right after reset, with no image loaded: nothing is listed in memory (R220; log 2, log 3). -/
def State.reset : State := State.resetWith Config.micro16 []

end Sys2Proof.Machine
end

