-- ==== Sys2Proof/Machine/Flags.lean ====
section
/-! DEFINITION. The bits of `CR`. The machine has no flags register and no condition codes (spec/10_state.md R28), so
no instruction computes a flag; the fields of `CR` (R29 to R33) are the only status bits there are. -/

namespace Sys2Proof.Machine

/-- The word with bit `n` alone set. -/
def bitMask (n : Nat) : Word := 1#16 <<< n

/-- The word with the two bits of the bank field set (spec/10_state.md R31). -/
def bankMask (p : BankPlacement) : Word := 3#16 <<< p.lsb

/-- The bits of `CR` an instruction or an interrupt entry can change: GIE, TIE0, TIE1 and BANK (R29). -/
def crFunctionMask (c : Config) : Word :=
  bitMask c.gieBit ||| bitMask c.tieBit0 ||| bitMask (c.tieBit0 + 1) ||| bankMask c.bankPlacement

/-- `bank(CR)`: the selected bank (R31). -/
def State.bank (s : State) : Bank := s.cr.extractLsb' s.cfg.bankPlacement.lsb 2

/-- `GIE`, the global interrupt enable (R30). -/
def State.gie (s : State) : Bool := s.cr.getLsbD s.cfg.gieBit

/-- `TIEi`, timer i's enable (R32). -/
def State.tie (s : State) (i : Timer) : Bool := s.cr.getLsbD (s.cfg.tieBit0 + i.id)

/-- `cr` with bit `n` set, the others kept (spec/44_system.md R165). -/
def setBit (n : Nat) (cr : Word) : Word := cr ||| bitMask n

/-- `cr` with bit `n` cleared, the others kept (R165). -/
def clearBit (n : Nat) (cr : Word) : Word := cr &&& ~~~(bitMask n)

/-- `cr` with the bank field replaced, the others kept (spec/44_system.md R164, R165). -/
def setBankField (p : BankPlacement) (n : Nat) (cr : Word) : Word :=
  (cr &&& ~~~(bankMask p)) ||| (BitVec.ofNat 16 n <<< p.lsb)

end Sys2Proof.Machine
end

