-- ==== Sys2Proof/Machine/Ops.lean ====
section
/-! DEFINITION. The named operations over memory, the stack, the instruction pointer and the latches: memory access
(spec/20_memory.md), Push and Pop (spec/43_stack.md), interrupt entry and return, ticks, forced halt and the
IllegalOpcode fault (spec/60_exceptions.md), image load (spec/70_reset_and_hazards.md). -/

namespace Sys2Proof.Machine

/-! ### One byte of memory -/

/-- What a cell that is not listed reads as: the zero fill of an image in bank 0 (spec/20_memory.md R70); in banks 1 to
3 the spec leaves it open. DESIGN CHOICE 0x00 there (log 2). -/
def Memory.unlisted (_key : Nat) : Byte := 0x00#8

/-- The byte at a key. -/
def Memory.read : Memory → Nat → Byte
  | [], a => Memory.unlisted a
  | (k, v) :: m, a => if k = a then v else Memory.read m a

/-- Lists a byte at its place in key order, before the first larger key. -/
def Memory.insert : Memory → Nat → Byte → Memory
  | [], a, v => [(a, v)]
  | (k, x) :: m, a, v => if a < k then (a, v) :: (k, x) :: m else (k, x) :: Memory.insert m a v

/-- Drops what is listed at a key. -/
def Memory.erase (m : Memory) (a : Nat) : Memory := m.filter (fun c => c.1 != a)

/-- Writes one byte and changes that byte only (spec/20_memory.md R59); the list stays in its canonical form. -/
def Memory.write (m : Memory) (a : Nat) (v : Byte) : Memory :=
  if v = Memory.unlisted a then m.erase a else (m.erase a).insert a v

/-- The canonical form from key `lo` up: keys strictly rising, each a cell of the four banks, none listed with the value
an unlisted cell has. -/
def Memory.wfFrom : Nat → Memory → Bool
  | _, [] => true
  | lo, (k, v) :: m =>
    decide (lo ≤ k) && decide (k < Config.nbanks * Config.bankSize) && decide (v ≠ Memory.unlisted k) &&
      Memory.wfFrom (k + 1) m

/-- The canonical form of memory. -/
def Memory.wf (m : Memory) : Bool := Memory.wfFrom 0 m

/-- The key of offset `a` in bank `b`: no two banks share a byte (spec/20_memory.md R50). -/
def cellKey (b : Bank) (a : Word) : Nat := Config.bankSize * b.toNat + a.toNat

/-! ### Access primitives of spec/00_scope.md R13 -/

/-- `MemRead(b, a, 1)`. -/
def State.memByte (s : State) (b : Bank) (a : Word) : Byte := s.mem.read (cellKey b a)

/-- `MemRead(b, a, 2)`: big-endian, the second byte at `(a + 1) mod 2^16` of the same bank (spec/20_memory.md R52, R56). -/
def State.memWord (s : State) (b : Bank) (a : Word) : Word := joinBytes (s.memByte b a) (s.memByte b (a + 1#16))

/-- `MemWrite(b, a, 1, v)`. -/
def State.setMemByte (b : Bank) (a : Word) (v : Byte) (s : State) : State :=
  { s with mem := s.mem.write (cellKey b a) v }

/-- `MemWrite(b, a, 2, v)`: big-endian (spec/20_memory.md R53, R56). -/
def State.setMemWord (b : Bank) (a : Word) (v : Word) (s : State) : State :=
  (s.setMemByte b a (hiByte v)).setMemByte b (a + 1#16) (loByte v)

/-! ### Registers -/

/-- `W[r]` (spec/10_state.md R21). -/
def State.reg (s : State) : Reg → Word
  | .w0 => s.w0
  | .w1 => s.w1
  | .w2 => s.w2
  | .w3 => s.w3

/-- `W[r] <- v` (spec/10_state.md R21). -/
def State.setReg (r : Reg) (v : Word) (s : State) : State :=
  match r with
  | .w0 => { s with w0 := v }
  | .w1 => { s with w1 := v }
  | .w2 => { s with w2 := v }
  | .w3 => { s with w3 := v }

/-- `IP <- v`. -/
def State.setIp (v : Word) (s : State) : State := { s with ip := v }

/-- `CR <- v`. -/
def State.setCr (v : Word) (s : State) : State := { s with cr := v }

/-- `SP <- v`. -/
def State.setSp (v : Word) (s : State) : State := { s with sp := v }

/-- The pending pair set to `p` (spec/10_state.md R39). -/
def State.setPending (p : Option Timer) (s : State) : State := { s with pending := p }

/-- `running <- r` (spec/10_state.md R40). -/
def State.setRunning (r : Bool) (s : State) : State := { s with running := r }

/-- The outside events still to come set to `is` (log 4). -/
def State.setInputs (is : List CycleInputs) (s : State) : State := { s with inputs := is }

/-- ADVANCE: `IP <- (IP + 2) mod 2^16` (spec/10_state.md R26). -/
def State.advance (s : State) : State := s.setIp (s.ip + Config.ilen)

/-- `pc <- target`: IP is the target and ADVANCE is skipped (spec/00_scope.md R13, spec/10_state.md R26). -/
def State.jump (target : Word) (s : State) : State := s.setIp target

/-! ### The stack engine -/

/-- `Push(v)`: SP moves up by 2 first, then the word is written there in the selected bank (spec/43_stack.md R150). -/
def State.push (v : Word) (s : State) : State :=
  let s' := s.setSp (s.sp + 2#16)
  s'.setMemWord s'.bank s'.sp v

/-- The word `Pop()` answers: the word at SP in the selected bank (spec/43_stack.md R151). -/
def State.top (s : State) : Word := s.memWord s.bank s.sp

/-- What `Pop()` does to the state: SP moves down by 2, the word stays in memory (spec/43_stack.md R151). -/
def State.drop (s : State) : State := s.setSp (s.sp - 2#16)

/-! ### Snapshot, fetch and the IllegalOpcode fault -/

/-- What the host reads between two atomic steps, and what a breakpoint hook reads (spec/10_state.md R45). -/
def State.snapshot (s : State) : Snapshot where
  running := s.running
  ip := s.ip
  cr := s.cr
  sp := s.sp
  w0 := s.w0
  w1 := s.w1
  w2 := s.w2
  w3 := s.w3

/-- FETCH: the word of bank 0 at IP, whatever bank is selected (spec/20_memory.md R58). -/
def State.fetch (s : State) : Word := s.memWord Config.codeBank s.ip

/-- What IllegalOpcode records of a state whose fetched word is `w` (spec/60_exceptions.md R181). -/
def State.illegalRecord (w : Word) (s : State) : IllegalOpcodeRecord where
  instr := w
  ip := s.ip
  cr := s.cr
  sp := s.sp
  w0 := s.w0
  w1 := s.w1
  w2 := s.w2
  w3 := s.w3

/-- `raise IllegalOpcode`: the record is latched; no register and no byte changes and IP stays at the word
(spec/60_exceptions.md R181). `running` is a free value from here on (spec/93_implementation_defined.md U5, log 8). -/
def State.raiseIllegalOpcode (w : Word) (s : State) : State :=
  { s with
    fault := some (s.illegalRecord w)
    running := Config.runningAfterFault s.freeIndex
    freeIndex := s.freeIndex + 1 }

/-- `emit brk(snapshot)` when a hook is registered, else nothing (spec/44_system.md R166). -/
def State.emitBrk (s : State) : State :=
  if s.cfg.hookPresent then { s with brkEvents := s.snapshot :: s.brkEvents } else s

/-! ### Interrupts -/

/-- The offset in bank 1 of a timer's vector slot: `VECTOR_BASE + VECTOR_STRIDE * id` (spec/60_exceptions.md R192). -/
def vectorAddress (c : Config) (i : Timer) : Word := c.vectorBase + c.vectorStride * BitVec.ofNat 16 i.id

/-- The tick of timer `i`: it latches when the core runs, no fault is latched, both enables are 1 and nothing is pending;
else it is lost (spec/60_exceptions.md R186, R187). -/
def State.tick (i : Timer) (s : State) : State :=
  if s.running && s.fault.isNone && s.gie && s.tie i && s.pending.isNone then s.setPending (some i) else s

/-- Interrupt entry for timer `i`, in the order of spec/60_exceptions.md R190: clear GIE, push IP in the selected bank,
load IP from the vector slot in bank 1, clear the pending pair. -/
def State.interruptEntry (i : Timer) (s : State) : State :=
  let s1 := s.setCr (clearBit s.cfg.gieBit s.cr)
  let s2 := s1.push s1.ip
  let s3 := s2.setIp (s2.memWord Config.mmioBank (vectorAddress s2.cfg i))
  s3.setPending none

/-- Return from interrupt: `pc <- Pop(); CR <- CR | GIE` (spec/41_control_flow.md R129). -/
def State.interruptReturn (s : State) : State :=
  let s1 := s.drop.jump s.top
  s1.setCr (setBit s1.cfg.gieBit s1.cr)

/-- POLL: interrupt entry when one is pending, else nothing; no enable is tested again (spec/60_exceptions.md R189, R198). -/
def State.poll (s : State) : State :=
  match s.pending with
  | none => s
  | some i => s.interruptEntry i

/-- The host's forced halt (spec/60_exceptions.md R207). -/
def State.forceHalt (s : State) : State := s.setRunning false

/-- One outside event (spec/00_scope.md R5). -/
def State.event (s : State) : Event → State
  | .tick i => s.tick i
  | .forceHalt => s.forceHalt

/-- Outside events in their order; any two ticks are in some order (spec/60_exceptions.md R188). -/
def State.events (s : State) (es : List Event) : State := es.foldl State.event s

/-- The outside events of the coming cycle: the head of the list, none past its end (log 4). -/
def nextInputs : List CycleInputs → CycleInputs
  | [] => { beforePoll := [], beforeExec := [] }
  | c :: _ => c

/-! ### Image load and reset -/

/-- The bytes of a string in canonical form, the first at key `a`. -/
def Memory.ofBytes (a : Nat) : List Byte → Memory
  | [] => []
  | v :: vs => if v = Memory.unlisted a then Memory.ofBytes (a + 1) vs else (a, v) :: Memory.ofBytes (a + 1) vs

/-- Reset with an image: `Mem[0]` is the image byte for byte and banks 1, 2, 3 are `INIT_MEM`, one after the other
(spec/70_reset_and_hazards.md R220, R222). An image that is not 65536 bytes is no valid input (R222). -/
def State.launch (cfg : Config) (image initMem : List Byte) : Option State :=
  if image.length = Config.bankSize ∧ initMem.length = (Config.nbanks - 1) * Config.bankSize then
    some (State.resetWith cfg (Memory.ofBytes 0 (image ++ initMem)))
  else none

end Sys2Proof.Machine
end

