-- ==== Sys2Proof/Machine/Operands.lean ====
section
/-! DEFINITION. The operand forms and the values they give: nibble placement (spec/40_alu.md R108), stack offsets
(spec/43_stack.md R154, R155), pixel nibbles (spec/42_load_store.md R143), and the shapes of effect that families share:
write a register and advance, branch on a condition. -/

namespace Sys2Proof.Machine

/-- `w` with nibble `yy` replaced by `xxxx`, nibble 0 least significant (spec/40_alu.md R108, spec/30_encoding.md R89). -/
def setNibble (yy xxxx : Nat) (w : Word) : Word :=
  (w &&& ~~~(0xF#16 <<< (4 * yy))) ||| (BitVec.ofNat 16 xxxx <<< (4 * yy))

/-- `(SP - xx) mod 2^16`: `xx` counts bytes, unscaled (spec/43_stack.md R154, R155; spec/30_encoding.md R89). -/
def State.stackAddress (s : State) (xx : Nat) : Word := s.sp - BitVec.ofNat 16 xx

/-- The byte of bank 1 that holds pixel `p`: two pixels per byte (spec/42_load_store.md R143). -/
def pixelAddress (p : Word) : Word := p >>> 1

/-- Whether pixel `p` is the high nibble of its byte: the even ones when `SPXL_EVEN_HIGH`, else the odd ones
(spec/42_load_store.md R143). -/
def pixelIsHigh (c : Config) (p : Word) : Bool := p.getLsbD 0 != c.spxlEvenHigh

/-- The byte `old` with one nibble replaced by `n`, the other kept (spec/42_load_store.md R143). -/
def replaceNibble (high : Bool) (n : BitVec 4) (old : Byte) : Byte :=
  if high then n ++ old.extractLsb' 0 4 else old.extractLsb' 4 4 ++ n

/-- `W[r] <- v`, then ADVANCE. -/
def State.writeAdvance (r : Reg) (v : Word) (s : State) : State := (s.setReg r v).advance

/-- `if c then pc <- target else ADVANCE` (spec/41_control_flow.md R120). -/
def State.branchIf (c : Bool) (target : Word) (s : State) : State := if c then s.jump target else s.advance

end Sys2Proof.Machine
end

