-- ==== Sys2Proof/Machine/Alu.lean ====
section
/-! DEFINITION. The ALU and register instructions (spec/40_alu.md). All arithmetic is modulo 2^16 (R111). Sources are read
before the destination is written (spec/10_state.md R22). -/

namespace Sys2Proof.Machine

/-- NOP (R100). -/
def execNop (s : State) : Result := .next s.advance

/-- ADD (R101). -/
def execAdd (cc aa bb : Reg) (s : State) : Result := .next (s.writeAdvance cc (s.reg aa + s.reg bb))

/-- SUB: `aa` is the minuend (R102). -/
def execSub (cc aa bb : Reg) (s : State) : Result := .next (s.writeAdvance cc (s.reg aa - s.reg bb))

/-- AND (R103). -/
def execAnd (cc aa bb : Reg) (s : State) : Result := .next (s.writeAdvance cc (s.reg aa &&& s.reg bb))

/-- OR (R104). -/
def execOr (cc aa bb : Reg) (s : State) : Result := .next (s.writeAdvance cc (s.reg aa ||| s.reg bb))

/-- XOR (R105). -/
def execXor (cc aa bb : Reg) (s : State) : Result := .next (s.writeAdvance cc (s.reg aa ^^^ s.reg bb))

/-- INC (R106). -/
def execInc (aa : Reg) (s : State) : Result := .next (s.writeAdvance aa (s.reg aa + 1#16))

/-- DEC (R107). -/
def execDec (aa : Reg) (s : State) : Result := .next (s.writeAdvance aa (s.reg aa - 1#16))

/-- SET: one nibble of the register is replaced (R108). -/
def execSet (aa : Reg) (yy xxxx : Nat) (s : State) : Result := .next (s.writeAdvance aa (setNibble yy xxxx (s.reg aa)))

/-- CLR (R109). -/
def execClr (aa : Reg) (s : State) : Result := .next (s.writeAdvance aa 0#16)

/-- NOT (R110). -/
def execNot (aa : Reg) (s : State) : Result := .next (s.writeAdvance aa (~~~(s.reg aa)))

end Sys2Proof.Machine
end

