-- ==== Sys2Proof/Machine/ControlFlow.lean ====
section
/-! DEFINITION. The control transfer instructions (spec/41_control_flow.md). A target is the whole value of a register, an
absolute offset in bank 0 (R120); comparisons are unsigned (R121). -/

namespace Sys2Proof.Machine

/-- JMP (R122). -/
def execJmp (aa : Reg) (s : State) : Result := .next (s.jump (s.reg aa))

/-- BRE (R123). -/
def execBre (cc aa bb : Reg) (s : State) : Result := .next (s.branchIf (s.reg aa == s.reg bb) (s.reg cc))

/-- BRNE (R124). -/
def execBrne (cc aa bb : Reg) (s : State) : Result := .next (s.branchIf (s.reg aa != s.reg bb) (s.reg cc))

/-- BRL: unsigned lower (R125). -/
def execBrl (cc aa bb : Reg) (s : State) : Result := .next (s.branchIf ((s.reg aa).ult (s.reg bb)) (s.reg cc))

/-- BRH: unsigned higher (R126). -/
def execBrh (cc aa bb : Reg) (s : State) : Result := .next (s.branchIf ((s.reg bb).ult (s.reg aa)) (s.reg cc))

/-- CALL: the address of the next instruction is pushed in the selected bank (R127). -/
def execCall (aa : Reg) (s : State) : Result := .next ((s.push (s.ip + Config.ilen)).jump (s.reg aa))

/-- RET (R128). -/
def execRet (s : State) : Result := .next (s.drop.jump s.top)

/-- RETI: the shared return from interrupt (R129). -/
def execReti (s : State) : Result := .next s.interruptReturn

/-- BRNZ (R130). -/
def execBrnz (aa cc : Reg) (s : State) : Result := .next (s.branchIf (s.reg aa != 0#16) (s.reg cc))

end Sys2Proof.Machine
end

