-- ==== Sys2Proof/Machine/DataMovement.lean ====
section
/-! DEFINITION. The data movement instructions (spec/42_load_store.md). The one addressing mode is register indirect (R144). -/

namespace Sys2Proof.Machine

/-- LD: `aa` holds the address, `bb` is the destination (R140). -/
def execLd (aa bb : Reg) (s : State) : Result := .next (s.writeAdvance bb (s.memWord s.bank (s.reg aa)))

/-- ST: `aa` holds the address, `bb` the value (R141). -/
def execSt (aa bb : Reg) (s : State) : Result := .next (s.setMemWord s.bank (s.reg aa) (s.reg bb)).advance

/-- CPY: `aa` is the source, `bb` the destination (R142). -/
def execCpy (aa bb : Reg) (s : State) : Result := .next (s.writeAdvance bb (s.reg aa))

/-- SPXL: the low nibble of `W[aa]` goes to pixel `W[bb]` of bank 1, whatever bank is selected (R143). -/
def execSpxl (aa bb : Reg) (s : State) : Result :=
  let idx := pixelAddress (s.reg bb)
  let n := (s.reg aa).extractLsb' 0 4
  let old := s.memByte Config.mmioBank idx
  .next (s.setMemByte Config.mmioBank idx (replaceNibble (pixelIsHigh s.cfg (s.reg bb)) n old)).advance

end Sys2Proof.Machine
end

