-- ==== Sys2Proof/Machine/Stack.lean ====
section
/-! DEFINITION. The stack instructions (spec/43_stack.md). The stack is full and ascending, without bounds (R156). -/

namespace Sys2Proof.Machine

/-- PUSH (R152). -/
def execPush (aa : Reg) (s : State) : Result := .next (s.push (s.reg aa)).advance

/-- POP (R153). -/
def execPop (aa : Reg) (s : State) : Result := .next (s.drop.writeAdvance aa s.top)

/-- PEEK: a stack word `xx` bytes below SP, SP unchanged (R154). -/
def execPeek (aa : Reg) (xx : Nat) (s : State) : Result := .next (s.writeAdvance aa (s.memWord s.bank (s.stackAddress xx)))

/-- CSP: the address PEEK would read (R155). -/
def execCsp (aa : Reg) (xx : Nat) (s : State) : Result := .next (s.writeAdvance aa (s.stackAddress xx))

end Sys2Proof.Machine
end

