-- ==== Sys2Proof/Machine/System.lean ====
section
/-! DEFINITION. The system instructions (spec/44_system.md). There is one mode, so none of them is privileged
(spec/60_exceptions.md R210). Every writer of `CR` keeps the bits of the other fields (R165). -/

namespace Sys2Proof.Machine

/-- DAI: clear GIE; what is already latched stays pending (R160). -/
def execDai (s : State) : Result := .next (s.setCr (clearBit s.cfg.gieBit s.cr)).advance

/-- EAI: set GIE (R161). -/
def execEai (s : State) : Result := .next (s.setCr (setBit s.cfg.gieBit s.cr)).advance

/-- DTI: clear the enable of timer `a` (R162). -/
def execDti (a : Timer) (s : State) : Result := .next (s.setCr (clearBit (s.cfg.tieBit0 + a.id) s.cr)).advance

/-- ETI: set the enable of timer `a` (R163). -/
def execEti (a : Timer) (s : State) : Result := .next (s.setCr (setBit (s.cfg.tieBit0 + a.id) s.cr)).advance

/-- SELB: select bank `aa`; SP and memory stay (R164). -/
def execSelb (aa : Nat) (s : State) : Result := .next (s.setCr (setBankField s.cfg.bankPlacement aa s.cr)).advance

/-- BRK: the event is emitted before ADVANCE, so its snapshot has IP at the BRK; without a hook a NOP (R166). -/
def execBrk (s : State) : Result := .next s.emitBrk.advance

/-- HLT: `running <- false`, then ADVANCE (R167). -/
def execHlt (s : State) : Result := .next (s.setRunning false).advance

end Sys2Proof.Machine
end

