-- ==== Sys2Proof/Machine/Dispatch.lean ====
section
/-! DEFINITION. EXECUTE: one arm per instruction (spec/00_scope.md R6, spec/30_encoding.md R90). -/

namespace Sys2Proof.Machine

def exec (i : Instr) (s : State) : Host.Outcome State Fault Refusal :=
  match i with
  | .nop => Sys2Proof.Machine.execNop s
  | .add cc aa bb => Sys2Proof.Machine.execAdd cc aa bb s
  | .sub cc aa bb => Sys2Proof.Machine.execSub cc aa bb s
  | .and cc aa bb => Sys2Proof.Machine.execAnd cc aa bb s
  | .or cc aa bb => Sys2Proof.Machine.execOr cc aa bb s
  | .xor cc aa bb => Sys2Proof.Machine.execXor cc aa bb s
  | .inc aa => Sys2Proof.Machine.execInc aa s
  | .dec aa => Sys2Proof.Machine.execDec aa s
  | .set aa yy xxxx => Sys2Proof.Machine.execSet aa yy xxxx s
  | .clr aa => Sys2Proof.Machine.execClr aa s
  | .not aa => Sys2Proof.Machine.execNot aa s
  | .ld aa bb => Sys2Proof.Machine.execLd aa bb s
  | .st aa bb => Sys2Proof.Machine.execSt aa bb s
  | .cpy aa bb => Sys2Proof.Machine.execCpy aa bb s
  | .push aa => Sys2Proof.Machine.execPush aa s
  | .pop aa => Sys2Proof.Machine.execPop aa s
  | .peek aa xx => Sys2Proof.Machine.execPeek aa xx s
  | .csp aa xx => Sys2Proof.Machine.execCsp aa xx s
  | .spxl aa bb => Sys2Proof.Machine.execSpxl aa bb s
  | .jmp aa => Sys2Proof.Machine.execJmp aa s
  | .bre cc aa bb => Sys2Proof.Machine.execBre cc aa bb s
  | .brne cc aa bb => Sys2Proof.Machine.execBrne cc aa bb s
  | .brl cc aa bb => Sys2Proof.Machine.execBrl cc aa bb s
  | .brh cc aa bb => Sys2Proof.Machine.execBrh cc aa bb s
  | .call aa => Sys2Proof.Machine.execCall aa s
  | .ret => Sys2Proof.Machine.execRet s
  | .reti => Sys2Proof.Machine.execReti s
  | .brnz aa cc => Sys2Proof.Machine.execBrnz aa cc s
  | .dai => Sys2Proof.Machine.execDai s
  | .eai => Sys2Proof.Machine.execEai s
  | .dti a => Sys2Proof.Machine.execDti a s
  | .eti a => Sys2Proof.Machine.execEti a s
  | .selb aa => Sys2Proof.Machine.execSelb aa s
  | .brk => Sys2Proof.Machine.execBrk s
  | .hlt => Sys2Proof.Machine.execHlt s

end Sys2Proof.Machine
end

