-- ==== Sys2Proof/Machine/Cycle.lean ====
section
/-! DEFINITION. The instruction cycle: the outside events before POLL, the test of `running`, POLL, the outside events
before FETCH, then FETCH, EXECUTE and ADVANCE (spec/00_scope.md R6, R7). -/

namespace Sys2Proof.Machine

/-- The atomic step `Exec`: fetch, execute, advance (R7); an illegal word raises IllegalOpcode (spec/60_exceptions.md R181). -/
def State.execStep (s : State) : Result :=
  match decodeBytes [hiByte s.fetch, loByte s.fetch] with
  | .ok (i, _) => exec i s
  | .error _ => .next (s.raiseIllegalOpcode s.fetch)

/-- The state at the top of the coming cycle: the outside events before POLL have happened and the cycle's inputs are
taken off the list. -/
def State.cycleTop (s : State) : State := (s.setInputs s.inputs.tail).events (nextInputs s.inputs).beforePoll

/-- The state from which the coming cycle fetches: POLL and the outside events after it have happened. -/
def State.beforeFetch (s : State) : State := s.cycleTop.poll.events (nextInputs s.inputs).beforeExec

/-- One instruction cycle. `running` is tested once, before POLL (R6). A stopped core changes nothing but the model's
list of outside events (R9; log 6). A core whose fault latch is set has no further cycle (spec/60_exceptions.md R181; log 7). -/
def State.cycle (s : State) : Result :=
  match s.fault with
  | some r => .fault (.illegalOpcode r)
  | none => if s.cycleTop.running then s.beforeFetch.execStep else .next s.cycleTop

/-- `s` with the instruction word `w` where the next cycle fetches it: in bank 0 at IP, the core running with no fault
latched, nothing pending and no outside event in the coming cycle (log 3). -/
def State.placeWord (s : State) (w : Word) : State :=
  let s1 := s.setMemWord Config.codeBank s.ip w
  { s1 with
    running := true
    fault := none
    pending := none
    inputs := match s1.inputs with
      | [] => []
      | _ :: rest => { beforePoll := [], beforeExec := [] } :: rest }

end Sys2Proof.Machine
end

