-- ==== Sys2Proof/Safety.lean ====
section
/-! DEFINITION. The terms claims are stated in: what is left unchanged, the invariant of every step, a safe run, and the
atomic steps of spec/00_scope.md R7. -/

namespace Sys2Proof.Machine

/-! ### Frames -/

/-- Every byte of the four banks reads as before. -/
def SameMemory (s t : State) : Prop := ∀ b a, t.memByte b a = s.memByte b a

/-- Every byte but the one at offset `a` of bank `b` reads as before. -/
def SameMemoryOutsideByte (b : Bank) (a : Word) (s t : State) : Prop :=
  ∀ b' a', ¬(b' = b ∧ a' = a) → t.memByte b' a' = s.memByte b' a'

/-- Every byte but the two of a word at offset `a` of bank `b` reads as before; the second byte's offset is
`(a + 1) mod 2^16` (spec/20_memory.md R56). -/
def SameMemoryOutsideWord (b : Bank) (a : Word) (s t : State) : Prop :=
  ∀ b' a', ¬(b' = b ∧ (a' = a ∨ a' = a + 1#16)) → t.memByte b' a' = s.memByte b' a'

/-- The word at offset `a` of bank `b` is stored big-endian as `v`, and no other byte changes (spec/20_memory.md R53). -/
def WordStored (b : Bank) (a v : Word) (s t : State) : Prop :=
  t.memByte b a = v.extractLsb' 8 8 ∧ t.memByte b (a + 1#16) = v.extractLsb' 0 8 ∧ SameMemoryOutsideWord b a s t

/-- Every general register is as before. -/
def SameRegs (s t : State) : Prop := ∀ r, t.reg r = s.reg r

/-- Every general register but `d` is as before. -/
def SameRegsExcept (d : Reg) (s t : State) : Prop := ∀ r, r ≠ d → t.reg r = s.reg r

/-- The configuration, the fault latch and the model's own fields `inputs` and `freeIndex` are as before. -/
def SameRun (s t : State) : Prop :=
  t.cfg = s.cfg ∧ t.fault = s.fault ∧ t.inputs = s.inputs ∧ t.freeIndex = s.freeIndex

/-- All but the general registers, IP, CR, SP and memory is as before. -/
def SameLatches (s t : State) : Prop :=
  SameRun s t ∧ t.pending = s.pending ∧ t.running = s.running ∧ t.brkEvents = s.brkEvents

/-- The effect of an instruction that writes register `d` and advances: `d` holds `v`, IP is 2 further, and nothing
else changes. -/
def WritesRegister (d : Reg) (v : Word) (s t : State) : Prop :=
  t.reg d = v ∧ SameRegsExcept d s t ∧ t.ip = s.ip + 2#16 ∧ t.cr = s.cr ∧ t.sp = s.sp ∧ SameMemory s t ∧
    SameLatches s t

/-- The effect of an instruction that only moves IP to `v`. -/
def MovesIp (v : Word) (s t : State) : Prop :=
  t.ip = v ∧ SameRegs s t ∧ t.cr = s.cr ∧ t.sp = s.sp ∧ SameMemory s t ∧ SameLatches s t

/-- The effect of an instruction that writes `v` to CR and advances. -/
def WritesCr (v : Word) (s t : State) : Prop :=
  t.cr = v ∧ t.ip = s.ip + 2#16 ∧ SameRegs s t ∧ t.sp = s.sp ∧ SameMemory s t ∧ SameLatches s t

/-- `i` is the instruction of word `w` under both the encoder and the decoder. -/
def EncodedAs (i : Instr) (w : Nat) : Prop := encodeWord i = BitVec.ofNat 16 w ∧ decodeWord (BitVec.ofNat 16 w) = .ok i

/-- The operand bits the format of an instruction uses (spec/30_encoding.md R82 to R88). -/
def formatBits : Instr → Byte
  | .nop | .ret | .reti | .dai | .eai | .brk | .hlt => 0x00#8
  | .add _ _ _ | .sub _ _ _ | .and _ _ _ | .or _ _ _ | .xor _ _ _ => 0x3F#8
  | .bre _ _ _ | .brne _ _ _ | .brl _ _ _ | .brh _ _ _ => 0x3F#8
  | .inc _ | .dec _ | .clr _ | .not _ | .jmp _ | .call _ | .push _ | .pop _ | .selb _ => 0x03#8
  | .ld _ _ | .st _ _ | .cpy _ _ | .spxl _ _ | .brnz _ _ => 0x0F#8
  | .set _ _ _ | .peek _ _ | .csp _ _ => 0xFF#8
  | .dti _ | .eti _ => 0x01#8

/-- The bits of a word that decide its instruction: the opcode byte and the format's operand bits (R80, R81). -/
def decidingBits (i : Instr) : Word := joinBytes 0xFF#8 (formatBits i)

/-- The opcode bytes spec/30_encoding.md R92 lists as illegal. -/
abbrev illegalOpcodes (op : Nat) : Prop :=
  op = 0x09 ∨ (0x0C ≤ op ∧ op ≤ 0x40) ∨ (0x44 ≤ op ∧ op ≤ 0x47) ∨ (0x4D ≤ op ∧ op ≤ 0x7F) ∨ op = 0x81 ∨
    (0x8A ≤ op ∧ op ≤ 0xBF) ∨ (0xC5 ≤ op ∧ op ≤ 0xFD)

/-- Where an instruction sends IP when it performs `pc <- target` in state `s`; none when ADVANCE follows
(spec/10_state.md R26; spec/41_control_flow.md R120, R122 to R130). -/
def transferTarget (s : State) : Instr → Option Word
  | .jmp aa | .call aa => some (s.reg aa)
  | .bre cc aa bb => if s.reg aa = s.reg bb then some (s.reg cc) else none
  | .brne cc aa bb => if s.reg aa ≠ s.reg bb then some (s.reg cc) else none
  | .brl cc aa bb => if (s.reg aa).toNat < (s.reg bb).toNat then some (s.reg cc) else none
  | .brh cc aa bb => if (s.reg aa).toNat > (s.reg bb).toNat then some (s.reg cc) else none
  | .brnz aa cc => if (s.reg aa).toNat ≠ 0 then some (s.reg cc) else none
  | .ret | .reti => some (s.memWord s.bank s.sp)
  | .nop | .add _ _ _ | .sub _ _ _ | .and _ _ _ | .or _ _ _ | .xor _ _ _ => none
  | .inc _ | .dec _ | .set _ _ _ | .clr _ | .not _ => none
  | .ld _ _ | .st _ _ | .cpy _ _ | .spxl _ _ | .push _ | .pop _ | .peek _ _ | .csp _ _ => none
  | .dai | .eai | .dti _ | .eti _ | .selb _ | .brk | .hlt => none

/-- The number a register's selector has (spec/10_state.md R21). -/
def regNumber : Reg → Nat
  | .w0 => 0
  | .w1 => 1
  | .w2 => 2
  | .w3 => 3

/-! ### The invariant and the safe run -/

/-- What every step keeps: memory is in its canonical form; SP has the parity it had at reset (spec/10_state.md R36);
the bits of CR without a function hold their reset value (R33); no `brk` event was emitted without a hook
(spec/44_system.md R166). -/
def StateInv (s : State) : Prop :=
  s.mem.wf = true ∧
  s.sp.getLsbD 0 = s.cfg.resetSp.getLsbD 0 ∧
  s.cr &&& ~~~(crFunctionMask s.cfg) = s.cfg.resetCr &&& ~~~(crFunctionMask s.cfg) ∧
  (s.cfg.hookPresent = false → s.brkEvents = [])

/-- No IllegalOpcode has been raised: the run is not one that ended in the fault (spec/00_scope.md R9, spec/60_exceptions.md
R181). -/
def Safe (s : State) : Prop := s.fault = none

/-! ### The atomic steps -/

/-- Where between two atomic steps of the core the machine stands (spec/00_scope.md R7). -/
inductive Phase where
  /-- Between ADVANCE of one cycle and POLL of the next. -/
  | cycleTop
  /-- Between POLL and FETCH of one cycle. -/
  | afterPoll
  deriving DecidableEq, Repr

/-- One atomic step: a tick or a forced halt between any two steps of the core, or the core's `Poll` or `Exec`, which
alternate (spec/00_scope.md R7; spec/60_exceptions.md R207). -/
inductive AtomicStep : Phase → State → Phase → State → Prop where
  | event (p : Phase) (s : State) (e : Event) : AtomicStep p s p (s.event e)
  | poll (s : State) (hr : s.running = true) (hf : s.fault = none) : AtomicStep .cycleTop s .afterPoll s.poll
  | exec (s t : State) (h : s.execStep = .next t) : AtomicStep .afterPoll s .cycleTop t

/-- Any number of atomic steps from phase `p` and state `s`. -/
inductive AtomicRun (p : Phase) (s : State) : Phase → State → Prop where
  | refl : AtomicRun p s p s
  | snoc {q r : Phase} {t u : State} (h : AtomicRun p s q t) (h' : AtomicStep q t r u) : AtomicRun p s r u

end Sys2Proof.Machine
end

