-- ==== Sys2Proof/Certificates/Slice0/Obligations.lean ====
section
/-! DEFINITION. The statements for the provers, in the order of the spec's files. -/

open Sys2Proof Sys2Proof.Machine

/-! ### Encoding -/

/-- For each of the 35 opcodes a word written out from its pattern in spec/30_encoding.md R90 decodes to the instruction it
stands for, and one illegal word is refused. The bit positions outside format R3 are the spec's own decision D3, the opcode
values inside a range its decision D5. -/
def Obligations.DecodesSpecWords : Prop :=
  decodeWord 0b0000000011111111#16 = .ok .nop ∧
  decodeWord 0b0000000100110001#16 = .ok (.add .w3 .w0 .w1) ∧
  decodeWord 0b0000001000100001#16 = .ok (.sub .w2 .w0 .w1) ∧
  decodeWord 0b0000001100110110#16 = .ok (.and .w3 .w1 .w2) ∧
  decodeWord 0b0000010000011011#16 = .ok (.or .w1 .w2 .w3) ∧
  decodeWord 0b0000010100001101#16 = .ok (.xor .w0 .w3 .w1) ∧
  decodeWord 0b0000011000000010#16 = .ok (.inc .w2) ∧
  decodeWord 0b0000011100000011#16 = .ok (.dec .w3) ∧
  decodeWord 0b0000100011111010#16 = .ok (.set .w3 3 10) ∧
  decodeWord 0b0000101000000010#16 = .ok (.clr .w2) ∧
  decodeWord 0b0000101100000001#16 = .ok (.not .w1) ∧
  decodeWord 0b0100000100000010#16 = .ok (.ld .w0 .w2) ∧
  decodeWord 0b0100001000001001#16 = .ok (.st .w2 .w1) ∧
  decodeWord 0b0100001100001100#16 = .ok (.cpy .w3 .w0) ∧
  decodeWord 0b0100100000000001#16 = .ok (.push .w1) ∧
  decodeWord 0b0100100100000010#16 = .ok (.pop .w2) ∧
  decodeWord 0b0100101010000010#16 = .ok (.peek .w2 2) ∧
  decodeWord 0b0100101111000100#16 = .ok (.csp .w3 4) ∧
  decodeWord 0b0100110000000001#16 = .ok (.spxl .w0 .w1) ∧
  decodeWord 0b1000000000000010#16 = .ok (.jmp .w2) ∧
  decodeWord 0b1000001000100100#16 = .ok (.bre .w2 .w1 .w0) ∧
  decodeWord 0b1000001100110001#16 = .ok (.brne .w3 .w0 .w1) ∧
  decodeWord 0b1000010000001001#16 = .ok (.brl .w0 .w2 .w1) ∧
  decodeWord 0b1000010100011110#16 = .ok (.brh .w1 .w3 .w2) ∧
  decodeWord 0b1000011000000011#16 = .ok (.call .w3) ∧
  decodeWord 0b1000011100000000#16 = .ok .ret ∧
  decodeWord 0b1000100000000000#16 = .ok .reti ∧
  decodeWord 0b1000100100000010#16 = .ok (.brnz .w0 .w2) ∧
  decodeWord 0b1100000000000000#16 = .ok .dai ∧
  decodeWord 0b1100000100000000#16 = .ok .eai ∧
  decodeWord 0b1100001000000000#16 = .ok (.dti .timer0) ∧
  decodeWord 0b1100001111111111#16 = .ok (.eti .timer1) ∧
  decodeWord 0b1100010000000010#16 = .ok (.selb 2) ∧
  decodeWord 0b1111111000000000#16 = .ok .brk ∧
  decodeWord 0b1111111100000000#16 = .ok .hlt ∧
  decodeWord 0b0000100111111111#16 = .error (.illegalOpcode 0x09#8)

/-- Decoding the bytes of a well-formed instruction, whatever follows them, gives the instruction back and leaves what
follows (spec/30_encoding.md R80, R94). -/
def Obligations.DecodeEncodeRoundTrip : Prop :=
  ∀ (i : Instr) (rest : List Byte), i.wellFormed = true → decodeBytes (encode i ++ rest) = .ok (i, rest)

/-- The decoder reads the opcode byte and the operand bits of the format, each at its place, and ignores the others: what
it answers is well-formed, its word is the decoded word with the ignored bits 0, and every word that agrees on the
deciding bits decodes the same (spec/30_encoding.md R81 to R88, R93; decisions D3 and D4). -/
def Obligations.DecoderReadsTheFormatBits : Prop :=
  ∀ (w : Word) (i : Instr), decodeWord w = .ok i →
    i.wellFormed = true ∧ encodeWord i = w &&& decidingBits i ∧
      ∀ w', w' &&& decidingBits i = w &&& decidingBits i → decodeWord w' = .ok i

/-- The decoder refuses exactly the listed opcode bytes, 221 of the 256, whatever the operand byte, and executing
such a word raises IllegalOpcode with the register snapshot, after which there is no further cycle (spec/30_encoding.md R92;
spec/60_exceptions.md R181, the spec's own decision D16; that the raising cycle answers next with the fault latched and the
step after it the fault is the model's choice, log 7). -/
def Obligations.IllegalOpcodesAreTheListedOnes : Prop :=
  (∀ op b : Byte, (∃ r, decodeWord (joinBytes op b) = .error r) ↔ illegalOpcodes op.toNat) ∧
  ((List.range 256).filter (fun op => (decodeWord (joinBytes (BitVec.ofNat 8 op) 0#8)).toOption.isNone)).length = 221 ∧
  ∀ s : State, illegalOpcodes (hiByte s.fetch).toNat → ∃ t r,
    r = { instr := s.fetch, ip := s.ip, cr := s.cr, sp := s.sp
          w0 := s.reg .w0, w1 := s.reg .w1, w2 := s.reg .w2, w3 := s.reg .w3 : IllegalOpcodeRecord } ∧
    s.execStep = .next t ∧ t.fault = some r ∧ Sys2Proof.Machine.step t = .fault (.illegalOpcode r)

/-! ### Memory and fetch -/

/-- A word is read and written big-endian, the second byte at `(a + 1) mod 2^16` of the same bank, a write
changes no other byte, and a read gives back what was written
(spec/20_memory.md R52, R53, R56; the wrap is the spec's own decision D8). -/
def Obligations.WordAccessIsBigEndian : Prop :=
  ∀ (s : State) (b : Bank) (a v : Word),
    s.memWord b a = BitVec.ofNat 16 (256 * (s.memByte b a).toNat +
      (s.memByte b (BitVec.ofNat 16 ((a.toNat + 1) % 65536))).toNat) ∧
    WordStored b a v s (s.setMemWord b a v) ∧ (s.setMemWord b a v).memWord b a = v

/-- R58: FETCH reads the two bytes of bank 0 at IP, opcode byte first, whatever bank is selected (the wrap
at 0xFFFF is the spec's own decision D8). -/
def Obligations.FetchReadsTheCodeBank : Prop :=
  ∀ s : State,
    hiByte s.fetch = s.memByte 0#2 s.ip ∧
    loByte s.fetch = s.memByte 0#2 (BitVec.ofNat 16 ((s.ip.toNat + 1) % 65536)) ∧
    ∀ v : Word, (s.setCr v).fetch = s.fetch

/-- A store to the code bank at the next instruction's address is what the next fetch reads (spec/20_memory.md R68). -/
def Obligations.StoreIsSeenByTheNextFetch : Prop :=
  ∀ (s : State) (aa bb : Reg), s.bank = 0#2 → s.reg aa = s.ip + 2#16 →
    ∃ t, Sys2Proof.Machine.exec (.st aa bb) s = .next t ∧ t.fetch = s.reg bb

/-- No instruction but ST, PUSH, CALL and SPXL changes a byte of memory (spec/20_memory.md R51). -/
def Obligations.OnlyStoresChangeMemory : Prop :=
  ∀ (i : Instr) (s t : State), (∀ aa bb, i ≠ .st aa bb) → (∀ aa, i ≠ .push aa) → (∀ aa, i ≠ .call aa) →
    (∀ aa bb, i ≠ .spxl aa bb) → Sys2Proof.Machine.exec i s = .next t → SameMemory s t

/-! ### The instruction pointer -/

/-- After an instruction IP is the target exactly when the instruction performs `pc <- target`, else
`(IP + 2) mod 2^16`; from 0xFFFE that is 0x0000 and from 0xFFFF it is 0x0001 (spec/10_state.md R26; that BRL and BRH compare
unsigned is the spec's own decision D6). -/
def Obligations.InstructionPointerAdvances : Prop :=
  (∀ (i : Instr) (s t : State), Sys2Proof.Machine.exec i s = .next t →
    t.ip = match transferTarget s i with
      | some v => v
      | none => BitVec.ofNat 16 ((s.ip.toNat + 2) % 65536)) ∧
  (∀ s : State, s.ip = 0xFFFE#16 → s.advance.ip = 0x0000#16) ∧
  (∀ s : State, s.ip = 0xFFFF#16 → s.advance.ip = 0x0001#16)

/-! ### ALU and register instructions -/

/-- NOP changes nothing but IP, and any operand byte gives a NOP (spec/40_alu.md R100). -/
def Obligations.NopOnlyAdvances : Prop :=
  (∀ s : State, ∃ t, Sys2Proof.Machine.exec .nop s = .next t ∧ MovesIp (s.ip + 2#16) s t) ∧
  ∀ b : Byte, decodeWord (joinBytes 0x00#8 b) = .ok .nop

/-- R101, R102: ADD and SUB write the sum and the difference modulo 2^16, from the old values of the sources, and change
nothing else. -/
def Obligations.AddAndSubWrap : Prop :=
  ∀ (s : State) (cc aa bb : Reg),
    (∃ t, Sys2Proof.Machine.exec (.add cc aa bb) s = .next t ∧
      WritesRegister cc (BitVec.ofNat 16 (((s.reg aa).toNat + (s.reg bb).toNat) % 65536)) s t) ∧
    (∃ t, Sys2Proof.Machine.exec (.sub cc aa bb) s = .next t ∧
      WritesRegister cc (BitVec.ofInt 16 (((s.reg aa).toNat : Int) - ((s.reg bb).toNat : Int))) s t) ∧
    EncodedAs (.add cc aa bb) (0x0100 + 16 * regNumber cc + 4 * regNumber aa + regNumber bb) ∧
    EncodedAs (.sub cc aa bb) (0x0200 + 16 * regNumber cc + 4 * regNumber aa + regNumber bb)

/-- R103, R104, R105: AND, OR and XOR act bit by bit on the old values of the sources, and change nothing else. -/
def Obligations.AndOrXorActBitwise : Prop :=
  ∀ (s : State) (cc aa bb : Reg),
    (∃ t v, Sys2Proof.Machine.exec (.and cc aa bb) s = .next t ∧ WritesRegister cc v s t ∧
      ∀ n, n < 16 → v.getLsbD n = ((s.reg aa).getLsbD n && (s.reg bb).getLsbD n)) ∧
    (∃ t v, Sys2Proof.Machine.exec (.or cc aa bb) s = .next t ∧ WritesRegister cc v s t ∧
      ∀ n, n < 16 → v.getLsbD n = ((s.reg aa).getLsbD n || (s.reg bb).getLsbD n)) ∧
    (∃ t v, Sys2Proof.Machine.exec (.xor cc aa bb) s = .next t ∧ WritesRegister cc v s t ∧
      ∀ n, n < 16 → v.getLsbD n = ((s.reg aa).getLsbD n ^^ (s.reg bb).getLsbD n)) ∧
    EncodedAs (.and cc aa bb) (0x0300 + 16 * regNumber cc + 4 * regNumber aa + regNumber bb) ∧
    EncodedAs (.or cc aa bb) (0x0400 + 16 * regNumber cc + 4 * regNumber aa + regNumber bb) ∧
    EncodedAs (.xor cc aa bb) (0x0500 + 16 * regNumber cc + 4 * regNumber aa + regNumber bb)

/-- INC, DEC, CLR and NOT write `aa` from its old value and change nothing else (spec/40_alu.md R106, R107, R109, R110). -/
def Obligations.OneRegisterInstructions : Prop :=
  ∀ (s : State) (aa : Reg),
    (∃ t, Sys2Proof.Machine.exec (.inc aa) s = .next t ∧
      WritesRegister aa (BitVec.ofNat 16 (((s.reg aa).toNat + 1) % 65536)) s t) ∧
    (∃ t, Sys2Proof.Machine.exec (.dec aa) s = .next t ∧
      WritesRegister aa (BitVec.ofNat 16 (((s.reg aa).toNat + 65535) % 65536)) s t) ∧
    (∃ t, Sys2Proof.Machine.exec (.clr aa) s = .next t ∧ WritesRegister aa 0x0000#16 s t) ∧
    (∃ t, Sys2Proof.Machine.exec (.not aa) s = .next t ∧
      WritesRegister aa (BitVec.ofNat 16 (0xFFFF - (s.reg aa).toNat)) s t)

/-- SET replaces nibble `yy` by `xxxx`, keeps the other three nibbles, and changes nothing else (spec/40_alu.md R108). -/
def Obligations.SetReplacesOneNibble : Prop :=
  ∀ (s : State) (aa : Reg) (yy xxxx : Nat), yy < 4 → xxxx < 16 →
    ∃ t v, Sys2Proof.Machine.exec (.set aa yy xxxx) s = .next t ∧ WritesRegister aa v s t ∧
      ∀ n, n < 16 → v.getLsbD n = if n / 4 = yy then xxxx.testBit (n % 4) else (s.reg aa).getLsbD n

/-- Four SETs with the nibbles 3, 2, 1, 0 of a constant load it, whatever the register held (spec/40_alu.md R108, the
source's round trip; spec/30_encoding.md R96). -/
def Obligations.FourSetsLoadAnyConstant : Prop :=
  ∀ (s : State) (aa : Reg) (k : Word), ∃ t₁ t₂ t₃ t₄,
    Sys2Proof.Machine.exec (.set aa 3 (k.toNat / 4096)) s = .next t₁ ∧
    Sys2Proof.Machine.exec (.set aa 2 (k.toNat / 256 % 16)) t₁ = .next t₂ ∧
    Sys2Proof.Machine.exec (.set aa 1 (k.toNat / 16 % 16)) t₂ = .next t₃ ∧
    Sys2Proof.Machine.exec (.set aa 0 (k.toNat % 16)) t₃ = .next t₄ ∧
    t₄.reg aa = k ∧ SameRegsExcept aa s t₄ ∧ t₄.ip = s.ip + 8#16 ∧ t₄.cr = s.cr ∧ t₄.sp = s.sp ∧
    SameMemory s t₄ ∧ SameLatches s t₄

/-! ### Control transfer -/

/-- R123, R124: BRE and BRNE branch on equality of the two registers to the value of the third, and change IP only. -/
def Obligations.BreAndBrneCompareForEquality : Prop :=
  ∀ (s : State) (cc aa bb : Reg),
    (∃ t, Sys2Proof.Machine.exec (.bre cc aa bb) s = .next t ∧
      MovesIp (if (s.reg aa).toNat = (s.reg bb).toNat then s.reg cc else s.ip + 2#16) s t) ∧
    (∃ t, Sys2Proof.Machine.exec (.brne cc aa bb) s = .next t ∧
      MovesIp (if (s.reg aa).toNat = (s.reg bb).toNat then s.ip + 2#16 else s.reg cc) s t) ∧
    EncodedAs (.bre cc aa bb) (0x8200 + 16 * regNumber cc + 4 * regNumber aa + regNumber bb) ∧
    EncodedAs (.brne cc aa bb) (0x8300 + 16 * regNumber cc + 4 * regNumber aa + regNumber bb)

/-- BRL and BRH compare as unsigned integers and change IP only (spec/41_control_flow.md R125, R126; that the comparison
is unsigned is the spec's own decision D6, R121). -/
def Obligations.BrlAndBrhCompareUnsigned : Prop :=
  ∀ (s : State) (cc aa bb : Reg),
    (∃ t, Sys2Proof.Machine.exec (.brl cc aa bb) s = .next t ∧
      MovesIp (if (s.reg aa).toNat < (s.reg bb).toNat then s.reg cc else s.ip + 2#16) s t) ∧
    (∃ t, Sys2Proof.Machine.exec (.brh cc aa bb) s = .next t ∧
      MovesIp (if (s.reg aa).toNat > (s.reg bb).toNat then s.reg cc else s.ip + 2#16) s t)

/-- JMP sets IP to a register; BRNZ does so when another register is not zero; both change IP only
(spec/41_control_flow.md R122, R130). -/
def Obligations.JmpAndBrnzSetIp : Prop :=
  ∀ (s : State) (aa cc : Reg),
    (∃ t, Sys2Proof.Machine.exec (.jmp aa) s = .next t ∧ MovesIp (s.reg aa) s t) ∧
    (∃ t, Sys2Proof.Machine.exec (.brnz aa cc) s = .next t ∧
      MovesIp (if (s.reg aa).toNat = 0 then s.ip + 2#16 else s.reg cc) s t)

/-- CALL pushes the address of the next instruction in the selected bank and goes to the register's value; besides IP, SP
and the two stack bytes nothing changes (spec/41_control_flow.md R127). -/
def Obligations.CallPushesReturnAddress : Prop :=
  ∀ (s : State) (aa : Reg), ∃ t, Sys2Proof.Machine.exec (.call aa) s = .next t ∧
    t.ip = s.reg aa ∧ t.sp = s.sp + 2#16 ∧
    WordStored s.bank (s.sp + 2#16) (BitVec.ofNat 16 ((s.ip.toNat + 2) % 65536)) s t ∧
    SameRegs s t ∧ t.cr = s.cr ∧ SameLatches s t

/-- RET pops IP; RETI pops IP and sets GIE, the one bit of CR it changes; no byte of memory changes
(spec/41_control_flow.md R128, R129). -/
def Obligations.RetAndRetiPopIp : Prop :=
  ∀ s : State,
    (∃ t, Sys2Proof.Machine.exec .ret s = .next t ∧ t.ip = s.memWord s.bank s.sp ∧ t.sp = s.sp - 2#16 ∧
      t.cr = s.cr ∧ SameRegs s t ∧ SameMemory s t ∧ SameLatches s t) ∧
    (∃ t, Sys2Proof.Machine.exec .reti s = .next t ∧ t.ip = s.memWord s.bank s.sp ∧ t.sp = s.sp - 2#16 ∧
      (∀ n, n < 16 → t.cr.getLsbD n = (decide (n = s.cfg.gieBit) || s.cr.getLsbD n)) ∧
      (s.cfg.literals → t.cr = s.cr ||| 0x0008#16) ∧ SameRegs s t ∧ SameMemory s t ∧ SameLatches s t)

/-- A CALL and a RET right after it come back to the instruction after the CALL with SP as before
(spec/41_control_flow.md R128, the source's property). -/
def Obligations.CallThenRetReturns : Prop :=
  ∀ (s : State) (aa : Reg), ∃ t u, Sys2Proof.Machine.exec (.call aa) s = .next t ∧
    Sys2Proof.Machine.exec .ret t = .next u ∧ u.ip = s.ip + 2#16 ∧ u.sp = s.sp ∧ u.cr = s.cr ∧ SameRegs s u ∧
    SameMemoryOutsideWord s.bank (s.sp + 2#16) s u ∧ SameLatches s u

/-! ### Data movement -/

/-- LD loads the big-endian word at the register's address in the selected bank; CPY copies a register; each changes its
destination and IP only (spec/42_load_store.md R140, R142). -/
def Obligations.LdAndCpyWriteTheirDestination : Prop :=
  ∀ (s : State) (aa bb : Reg),
    (∃ t, Sys2Proof.Machine.exec (.ld aa bb) s = .next t ∧
      WritesRegister bb (BitVec.ofNat 16 (256 * (s.memByte s.bank (s.reg aa)).toNat +
        (s.memByte s.bank (s.reg aa + 1#16)).toNat)) s t) ∧
    (∃ t, Sys2Proof.Machine.exec (.cpy aa bb) s = .next t ∧ WritesRegister bb (s.reg aa) s t)

/-- ST stores the register big-endian at the other register's address in the selected bank and changes those two bytes and
IP only (spec/42_load_store.md R141). -/
def Obligations.StStoresOneWord : Prop :=
  ∀ (s : State) (aa bb : Reg), ∃ t, Sys2Proof.Machine.exec (.st aa bb) s = .next t ∧
    WordStored s.bank (s.reg aa) (s.reg bb) s t ∧ t.ip = s.ip + 2#16 ∧ SameRegs s t ∧ t.cr = s.cr ∧ t.sp = s.sp ∧
    SameLatches s t

/-- SPXL writes the low nibble of `W[aa]` into one nibble of byte `W[bb] / 2` of bank 1, keeps the other nibble, and
changes no other byte and nothing else but IP. With `SPXL_EVEN_HIGH` the even pixel is bits 7:4, else bits 3:0
(spec/42_load_store.md R143; the side is the spec's own decision D7). -/
def Obligations.SpxlWritesOneNibble : Prop :=
  ∀ (s : State) (aa bb : Reg), ∃ t, Sys2Proof.Machine.exec (.spxl aa bb) s = .next t ∧
    (let idx := BitVec.ofNat 16 ((s.reg bb).toNat / 2)
     let high := decide ((s.reg bb).toNat % 2 = 0) == s.cfg.spxlEvenHigh
     (∀ n, n < 4 → (t.memByte 1#2 idx).getLsbD (n + 4) =
       if high then (s.reg aa).getLsbD n else (s.memByte 1#2 idx).getLsbD (n + 4)) ∧
     (∀ n, n < 4 → (t.memByte 1#2 idx).getLsbD n =
       if high then (s.memByte 1#2 idx).getLsbD n else (s.reg aa).getLsbD n) ∧
     SameMemoryOutsideByte 1#2 idx s t) ∧
    t.ip = s.ip + 2#16 ∧ SameRegs s t ∧ t.cr = s.cr ∧ t.sp = s.sp ∧ SameLatches s t

/-- A load from the address just stored to gives the value stored (the source's scenario 2, spec/95_test_vectors.md X2). -/
def Obligations.StThenLdReadsBack : Prop :=
  ∀ (s : State) (aa bb dd : Reg), ∃ t u, Sys2Proof.Machine.exec (.st aa bb) s = .next t ∧
    Sys2Proof.Machine.exec (.ld aa dd) t = .next u ∧ u.reg dd = s.reg bb ∧ SameRegsExcept dd s u

/-! ### Stack -/

/-- A push moves SP up by 2 and stores the word big-endian there, in the bank CR selects; PUSH, CALL and interrupt
entry push so (spec/43_stack.md R150; spec/41_control_flow.md R127; spec/60_exceptions.md R190; that entry is a push is the
spec's own decision D22, log 25). -/
def Obligations.PushOperation : Prop :=
  (∀ (s : State) (v : Word),
    (s.push v).sp = BitVec.ofNat 16 ((s.sp.toNat + 2) % 65536) ∧ WordStored s.bank (s.push v).sp v s (s.push v)) ∧
  (∀ (s : State) (aa : Reg), ∃ t, Sys2Proof.Machine.exec (.push aa) s = .next t ∧
    t.sp = s.sp + 2#16 ∧ WordStored s.bank (s.sp + 2#16) (s.reg aa) s t) ∧
  (∀ (s : State) (aa : Reg), ∃ t, Sys2Proof.Machine.exec (.call aa) s = .next t ∧
    t.sp = s.sp + 2#16 ∧ WordStored s.bank (s.sp + 2#16) (s.ip + 2#16) s t) ∧
  (∀ (s : State) (i : Timer), s.cfg.literals → s.pending = some i →
    s.poll.sp = s.sp + 2#16 ∧ WordStored s.bank (s.sp + 2#16) s.ip s s.poll)

/-- R151: a pop reads the word at SP in the bank CR selects, then moves SP down by 2, and the word stays in memory; POP,
RET and RETI pop so. -/
def Obligations.PopOperation : Prop :=
  ∀ s : State,
    s.top = s.memWord s.bank s.sp ∧ s.drop.sp = BitVec.ofInt 16 ((s.sp.toNat : Int) - 2) ∧ SameMemory s s.drop ∧
    (∀ aa : Reg, ∃ t, Sys2Proof.Machine.exec (.pop aa) s = .next t ∧
      t.reg aa = s.memWord s.bank s.sp ∧ t.sp = s.sp - 2#16 ∧ SameMemory s t) ∧
    (∃ t, Sys2Proof.Machine.exec .ret s = .next t ∧
      t.ip = s.memWord s.bank s.sp ∧ t.sp = s.sp - 2#16 ∧ SameMemory s t) ∧
    (∃ t, Sys2Proof.Machine.exec .reti s = .next t ∧
      t.ip = s.memWord s.bank s.sp ∧ t.sp = s.sp - 2#16 ∧ SameMemory s t)

/-- PUSH changes SP, IP and the two bytes at the new SP only (spec/43_stack.md R152). -/
def Obligations.PushStoresRegister : Prop :=
  ∀ (s : State) (aa : Reg), ∃ t, Sys2Proof.Machine.exec (.push aa) s = .next t ∧
    t.sp = s.sp + 2#16 ∧ WordStored s.bank (s.sp + 2#16) (s.reg aa) s t ∧ t.ip = s.ip + 2#16 ∧ SameRegs s t ∧
    t.cr = s.cr ∧ SameLatches s t

/-- POP changes its destination, SP and IP only (spec/43_stack.md R153). -/
def Obligations.PopLoadsRegister : Prop :=
  ∀ (s : State) (aa : Reg), ∃ t, Sys2Proof.Machine.exec (.pop aa) s = .next t ∧
    t.sp = s.sp - 2#16 ∧ t.reg aa = s.memWord s.bank s.sp ∧ SameRegsExcept aa s t ∧ t.ip = s.ip + 2#16 ∧
    t.cr = s.cr ∧ SameMemory s t ∧ SameLatches s t

/-- PEEK reads the word `xx` bytes below SP and CSP that address itself; SP stays and only the destination and IP change
(spec/43_stack.md R154, R155; that the offset counts bytes is the spec's own decision D21). -/
def Obligations.PeekAndCspUseByteOffsets : Prop :=
  ∀ (s : State) (aa : Reg) (xx : Nat), xx < 64 →
    (∃ t, Sys2Proof.Machine.exec (.peek aa xx) s = .next t ∧
      WritesRegister aa (s.memWord s.bank (BitVec.ofInt 16 ((s.sp.toNat : Int) - (xx : Int)))) s t) ∧
    (∃ t, Sys2Proof.Machine.exec (.csp aa xx) s = .next t ∧
      WritesRegister aa (BitVec.ofInt 16 ((s.sp.toNat : Int) - (xx : Int))) s t)

/-- PUSH and then POP of the same register leaves every register, SP, CR and all but the two bytes above the old SP as they
were (spec/43_stack.md R153, the source's property). -/
def Obligations.PushThenPopRestores : Prop :=
  ∀ (s : State) (aa : Reg), ∃ t u, Sys2Proof.Machine.exec (.push aa) s = .next t ∧
    Sys2Proof.Machine.exec (.pop aa) t = .next u ∧ SameRegs s u ∧ u.sp = s.sp ∧ u.cr = s.cr ∧ u.ip = s.ip + 4#16 ∧
    SameMemoryOutsideWord s.bank (s.sp + 2#16) s u ∧ SameLatches s u

/-- SP moves up by 2 in PUSH and CALL, down by 2 in POP, RET and RETI, and in no other instruction
(spec/10_state.md R36). -/
def Obligations.OnlyStackInstructionsMoveSp : Prop :=
  ∀ (i : Instr) (s t : State), Sys2Proof.Machine.exec i s = .next t →
    t.sp = match i with
      | .push _ | .call _ => s.sp + 2#16
      | .pop _ | .ret | .reti => s.sp - 2#16
      | _ => s.sp

/-! ### System -/

/-- DAI, EAI, DTI and ETI clear or set one bit of CR, keep the other fifteen, and change nothing else but IP; with the
literals of R10 the bits are 3, 8 and 9 (spec/44_system.md R160 to R163, R165). -/
def Obligations.EnableInstructionsWriteOneBit : Prop :=
  ∀ (s : State) (a : Timer),
    (∃ t v, Sys2Proof.Machine.exec .dai s = .next t ∧ WritesCr v s t ∧
      (∀ n, n < 16 → v.getLsbD n = if n = s.cfg.gieBit then false else s.cr.getLsbD n) ∧
      (s.cfg.literals → v = s.cr &&& 0xFFF7#16)) ∧
    (∃ t v, Sys2Proof.Machine.exec .eai s = .next t ∧ WritesCr v s t ∧
      (∀ n, n < 16 → v.getLsbD n = if n = s.cfg.gieBit then true else s.cr.getLsbD n) ∧
      (s.cfg.literals → v = s.cr ||| 0x0008#16)) ∧
    (∃ t v, Sys2Proof.Machine.exec (.dti a) s = .next t ∧ WritesCr v s t ∧
      (∀ n, n < 16 → v.getLsbD n = if n = s.cfg.tieBit0 + a.id then false else s.cr.getLsbD n) ∧
      (s.cfg.literals → v = s.cr &&& (if a = .timer0 then 0xFEFF#16 else 0xFDFF#16))) ∧
    (∃ t v, Sys2Proof.Machine.exec (.eti a) s = .next t ∧ WritesCr v s t ∧
      (∀ n, n < 16 → v.getLsbD n = if n = s.cfg.tieBit0 + a.id then true else s.cr.getLsbD n) ∧
      (s.cfg.literals → v = s.cr ||| (if a = .timer0 then 0x0100#16 else 0x0200#16)))

/-- SELB replaces the two bits of the bank field and keeps the other fourteen; the new bank is the one selected afterwards;
SP, memory and the rest stay (spec/44_system.md R164, R165; the field's position is the spec's own decision D1). -/
def Obligations.SelbSelectsTheBank : Prop :=
  ∀ (s : State) (aa : Nat), aa < 4 →
    ∃ t v, Sys2Proof.Machine.exec (.selb aa) s = .next t ∧ WritesCr v s t ∧ t.bank = BitVec.ofNat 2 aa ∧
      (s.cfg.bankPlacement = .bits15to14 → v = (s.cr &&& 0x3FFF#16) ||| BitVec.ofNat 16 (aa * 16384)) ∧
      (s.cfg.bankPlacement = .bits13to12 → v = (s.cr &&& 0xCFFF#16) ||| BitVec.ofNat 16 (aa * 4096))

/-- BRK emits the snapshot of the state before ADVANCE when a hook is registered and nothing otherwise, and changes
nothing else but IP (spec/44_system.md R166; that the hook sees IP at the BRK is the spec's own decision D15; that
the events are kept in State, newest first, is the model's choice, log 12). -/
def Obligations.BrkEmitsTheSnapshot : Prop :=
  ∀ s : State, ∃ t, Sys2Proof.Machine.exec .brk s = .next t ∧
    t.brkEvents = (if s.cfg.hookPresent then [s.snapshot] else []) ++ s.brkEvents ∧
    t.ip = s.ip + 2#16 ∧ SameRegs s t ∧ t.cr = s.cr ∧ t.sp = s.sp ∧ SameMemory s t ∧ SameRun s t ∧
    t.pending = s.pending ∧ t.running = s.running

/-- HLT clears `running`, advances IP, and changes nothing else (spec/44_system.md R167). -/
def Obligations.HltStopsTheCore : Prop :=
  ∀ s : State, ∃ t, Sys2Proof.Machine.exec .hlt s = .next t ∧ t.running = false ∧
    t.ip = s.ip + 2#16 ∧ SameRegs s t ∧ t.cr = s.cr ∧ t.sp = s.sp ∧ SameMemory s t ∧ SameRun s t ∧
    t.pending = s.pending ∧ t.brkEvents = s.brkEvents

/-- HLT is the one instruction that clears `running`, and none sets it (spec/10_state.md R40). -/
def Obligations.OnlyHltClearsRunning : Prop :=
  ∀ (i : Instr) (s t : State), Sys2Proof.Machine.exec i s = .next t →
    t.running = (s.running && decide (i ≠ .hlt))

/-- No instruction writes a bit of CR that has no function (spec/10_state.md R33, the spec's own decision D2;
spec/44_system.md R165). -/
def Obligations.NoInstructionWritesUnassignedCrBits : Prop :=
  ∀ (i : Instr) (s t : State), i.wellFormed = true → Sys2Proof.Machine.exec i s = .next t →
    t.cr &&& ~~~(crFunctionMask s.cfg) = s.cr &&& ~~~(crFunctionMask s.cfg)

/-- No instruction writes the pending pair, the fault latch, the configuration or the list of outside events
(spec/10_state.md R39, R42; spec/60_exceptions.md R185). -/
def Obligations.NoInstructionWritesThePendingPair : Prop :=
  ∀ (i : Instr) (s t : State), Sys2Proof.Machine.exec i s = .next t → t.pending = s.pending ∧ SameRun s t

/-! ### Interrupts -/

/-- A tick latches its timer when the core runs without a fault, GIE and the timer's enable are 1 and nothing is pending,
and then changes the pending pair only (spec/60_exceptions.md R186; the test of `running` and of the fault is the spec's own
decision D20). -/
def Obligations.TickLatches : Prop :=
  ∀ (s : State) (i : Timer), s.cfg.literals → s.running = true → s.fault = none →
    s.cr.getLsbD 3 = true → s.cr.getLsbD (8 + i.id) = true → s.pending = none →
    s.tick i = { s with pending := some i }

/-- A tick whose condition fails changes nothing, so nothing remembers it; while GIE is 0 every tick of either timer is lost
(spec/60_exceptions.md R186, R187; that a stopped or faulted core ignores ticks is the spec's own decision D20). -/
def Obligations.FailedTicksAreLost : Prop :=
  (∀ (s : State) (i : Timer), s.running = false ∨ s.fault ≠ none ∨ s.gie = false ∨ s.tie i = false ∨ s.pending ≠ none →
    s.tick i = s) ∧
  ∀ (s : State) (is : List Timer), s.gie = false → s.events (is.map .tick) = s

/-- Of any ticks between two steps of the core exactly one is latched, the first whose timer is enabled; the others are
dropped, whatever their order (spec/60_exceptions.md R188, both orders by decision D17). -/
def Obligations.OneOfManyTicksIsLatched : Prop :=
  ∀ (s : State) (is : List Timer), s.running = true → s.fault = none → s.gie = true → s.pending = none →
    s.events (is.map .tick) = { s with pending := is.find? (fun i => s.tie i) }

/-- POLL does nothing when nothing is pending and performs interrupt entry when something is; either way the cycle
goes on to FETCH and EXECUTE at the IP that POLL leaves, so a handler's first instruction runs in the cycle that took the
interrupt (spec/60_exceptions.md R189; that outside events fall between POLL and FETCH is the spec's own decision D14, the
list that holds them the model's choice, log 4). -/
def Obligations.PollPrecedesFetch : Prop :=
  (∀ s : State, s.pending = none → s.poll = s) ∧
  (∀ (s : State) (i : Timer), s.pending = some i → s.poll = s.interruptEntry i) ∧
  (∀ s : State, s.fault = none → s.running = true → s.inputs = [] →
    Sys2Proof.Machine.step s = s.poll.execStep) ∧
  ∀ s : State, s.fault = none → s.cycleTop.running = true →
    Sys2Proof.Machine.step s = (s.cycleTop.poll.events (nextInputs s.inputs).beforeExec).execStep ∧
    (s.cycleTop.poll.events (nextInputs s.inputs).beforeExec).ip = s.cycleTop.poll.ip

/-- Interrupt entry: GIE is cleared and no other bit of CR, IP is pushed in the bank CR selects, IP becomes the word of the
timer's slot in bank 1 read after the push, nothing is pending, and nothing else changes (spec/60_exceptions.md R190, R191,
R192; that entry moves SP is the spec's own decision D22). -/
def Obligations.InterruptEntryEffect : Prop :=
  ∀ (s : State) (i : Timer), s.cfg.literals → s.pending = some i →
    s.poll.cr = s.cr &&& 0xFFF7#16 ∧ s.poll.sp = s.sp + 2#16 ∧
    WordStored s.bank (s.sp + 2#16) s.ip s s.poll ∧
    s.poll.ip = s.poll.memWord 1#2 (if i = .timer0 then 0x7D00#16 else 0x7D04#16) ∧
    s.poll.pending = none ∧ SameRegs s s.poll ∧ SameRun s s.poll ∧ s.poll.running = s.running ∧
    s.poll.brkEvents = s.brkEvents

/-- RETI right after an interrupt entry goes back to the interrupted address with SP as before and GIE set
(spec/60_exceptions.md R195). -/
def Obligations.RetiUndoesInterruptEntry : Prop :=
  ∀ (s : State) (i : Timer), s.cfg.literals → s.pending = some i →
    ∃ t, Sys2Proof.Machine.exec .reti s.poll = .next t ∧ t.ip = s.ip ∧ t.sp = s.sp ∧ t.cr = s.cr ||| 0x0008#16 ∧
      SameRegs s t ∧ SameMemoryOutsideWord s.bank (s.sp + 2#16) s t ∧ t.pending = none

/-- A tick latched between POLL and EXECUTE of the cycle that executes DAI, or DTI of its own timer, is taken by the next
POLL, although its enables are not both 1 any more (spec/60_exceptions.md R198; spec/70_reset_and_hazards.md R232). -/
def Obligations.LatchedInterruptSurvivesDisable : Prop :=
  ∀ (s : State) (i : Timer), s.cfg.literals → s.running = true → s.fault = none → s.pending = none →
    s.gie = true → s.tie i = true → s.inputs = [{ beforePoll := [], beforeExec := [.tick i] }] →
    (decodeWord s.fetch = .ok .dai ∨ decodeWord s.fetch = .ok (.dti i)) →
    ∃ t, Sys2Proof.Machine.step s = .next t ∧ t.pending = some i ∧ (t.gie && t.tie i) = false ∧
      t.ip = s.ip + 2#16 ∧ Sys2Proof.Machine.step t = (t.interruptEntry i).execStep

/-- With GIE 0 and nothing pending, a cycle that executes neither EAI nor RETI leaves it so, whatever ticks arrive: a
program receives no interrupt until it enables them (spec/60_exceptions.md R185; spec/70_reset_and_hazards.md R221). -/
def Obligations.InterruptsStayOffUntilEnabled : Prop :=
  ∀ s t : State, s.cfg.literals → s.gie = false → s.pending = none →
    decodeWord s.fetch ≠ .ok .eai → decodeWord s.fetch ≠ .ok .reti → Sys2Proof.Machine.step s = .next t →
    t.gie = false ∧ t.pending = none

/-- A forced halt that arrives before POLL stops the core at once, whether an interrupt is pending or not: a pending
interrupt stays pending, no register and no byte changes, and no instruction runs (spec/60_exceptions.md R193 a, R207; the
host step is the spec's own decision D19; that the step of the halted core answers next is the model's choice, log 6, as is
the list that holds the halt, log 4). -/
def Obligations.ForcedHaltWinsOverInterrupt : Prop :=
  ∀ s : State, s.fault = none → .forceHalt ∈ (nextInputs s.inputs).beforePoll →
    ∃ t, Sys2Proof.Machine.step s = .next t ∧ t.running = false ∧ (s.pending ≠ none → t.pending = s.pending) ∧
      t.ip = s.ip ∧ t.cr = s.cr ∧ t.sp = s.sp ∧ SameRegs s t ∧ SameMemory s t ∧ t.fault = none ∧
      t.brkEvents = s.brkEvents ∧ t.cfg = s.cfg

/-! ### Stopping and the fault -/

/-- A stopped core keeps its snapshot, its memory, its pending pair and its events for any number of steps, whatever
outside events arrive (spec/00_scope.md R9; spec/60_exceptions.md R208; the model's choice that such a step answers next,
log 6). -/
def Obligations.StoppedCoreChangesNothing : Prop :=
  ∀ (k : Nat) (s : State), s.fault = none → s.running = false →
    ∃ t, Host.Core.run Sys2Proof.core k s = .next t ∧ t.snapshot = s.snapshot ∧ SameMemory s t ∧
      t.pending = s.pending ∧ t.fault = none ∧ t.brkEvents = s.brkEvents

/-- An illegal word changes no register and no byte of the state it is fetched in, leaves IP at the word, and latches the
fault with the word and the registers; the machine then has no further cycle (spec/60_exceptions.md R181, decision D16;
the model's choice that the raising cycle answers next and the one after it the fault, log 7). -/
def Obligations.IllegalOpcodeLatchesTheFault : Prop :=
  ∀ (s u : State) (r : DecodeReject), s.fault = none → s.cycleTop.running = true → u = s.beforeFetch →
    decodeWord u.fetch = .error r →
    ∃ t, Sys2Proof.Machine.step s = .next t ∧ t.ip = u.ip ∧ t.cr = u.cr ∧ t.sp = u.sp ∧ SameRegs u t ∧
      SameMemory u t ∧ t.pending = u.pending ∧ t.brkEvents = u.brkEvents ∧ t.cfg = u.cfg ∧
      t.fault = some (u.illegalRecord u.fetch) ∧
      Sys2Proof.Machine.step t = .fault (.illegalOpcode (u.illegalRecord u.fetch))

/-- A latched fault is never cleared: the machine answers the fault, and no tick changes anything
(spec/10_state.md R41; spec/60_exceptions.md R181, decision D16). -/
def Obligations.LatchedFaultStays : Prop :=
  ∀ (s : State) (r : IllegalOpcodeRecord), s.fault = some r →
    Sys2Proof.Machine.step s = .fault (.illegalOpcode r) ∧ ∀ is : List Timer, s.events (is.map .tick) = s

/-- Every cycle completes: a step of a machine without a latched fault answers a next state of the same configuration, so
nothing but IllegalOpcode ever stops it (spec/60_exceptions.md R182; spec/70_reset_and_hazards.md R240). That a step of a
stopped core answers next (log 6) and that the cycle that raises IllegalOpcode does (log 7) is the model's choice. -/
def Obligations.EveryCycleCompletes : Prop :=
  ∀ s : State, s.fault = none → ∃ t, Sys2Proof.Machine.step s = .next t ∧ t.cfg = s.cfg

/-! ### The step -/

/-- A step runs the decoded instruction: after the outside events before POLL, with the core running, POLL and the events
after it, the bytes at IP in bank 0 decide the instruction and the step is its `exec`. Without outside events and with
nothing pending that is `exec` in the state itself (spec/00_scope.md R6, R7; where
the outside events fall is the spec's own decision D14, the list that holds them the model's, log 4). -/
def Obligations.StepRunsTheDecodedInstruction : Prop :=
  (∀ (s u : State) (i : Instr), s.fault = none →
    ((s.setInputs s.inputs.tail).events (nextInputs s.inputs).beforePoll).running = true →
    u = (((s.setInputs s.inputs.tail).events (nextInputs s.inputs).beforePoll).poll).events
      (nextInputs s.inputs).beforeExec →
    decodeBytes [u.memByte 0#2 u.ip, u.memByte 0#2 (u.ip + 1#16)] = .ok (i, []) →
    Sys2Proof.Machine.step s = Sys2Proof.Machine.exec i u) ∧
  ∀ (s : State) (i : Instr), s.fault = none → s.running = true → s.pending = none → s.inputs = [] →
    decodeBytes [s.memByte 0#2 s.ip, s.memByte 0#2 (s.ip + 1#16)] = .ok (i, []) →
    Sys2Proof.Machine.step s = Sys2Proof.Machine.exec i s

/-- `withFetchWord` makes the very next step run the instruction of the word, in any state (the model's convention,
log 3). -/
def Obligations.WithFetchWordRunsTheWord : Prop :=
  ∀ (s : State) (nbits w : Nat) (i : Instr), decodeTableWord nbits w = some i →
    Sys2Proof.Machine.step (s.withFetchWord nbits w) =
      Sys2Proof.Machine.exec i ((s.withFetchWord nbits w).setInputs s.inputs.tail)

/-- Every step is made of the atomic steps of spec/00_scope.md R7, starting and ending between two cycles (where
ticks and forced halts fall is the spec's own decision D14, D19). -/
def Obligations.StepIsMadeOfAtomicSteps : Prop :=
  ∀ s t : State, Sys2Proof.Machine.step s = .next t →
    AtomicRun .cycleTop (s.setInputs s.inputs.tail) .cycleTop t

/-- Every interleaving of the atomic steps is a schedule of outside events: from a state with none to come, whatever the
core, the ticks and the host do until a point between two cycles, some list of outside events makes the steps of the
machine reach that point, up to outside events that fall after the last cycle (spec/00_scope.md R7; spec/60_exceptions.md
R188, R197, R207, the spec's own decisions D14, D17, D19; the list is the model's own, log 4). -/
def Obligations.EveryInterleavingIsASchedule : Prop :=
  ∀ s t : State, s.inputs = [] → AtomicRun .cycleTop s .cycleTop t →
    ∃ (is : List CycleInputs) (es : List Event) (u : State),
      Host.Core.run Sys2Proof.core is.length (s.setInputs is) = .next u ∧ u.inputs = [] ∧ t = u.events es

/-- Every step keeps the invariant: memory in its canonical form, SP's parity, the bits of CR without a function at their
reset value, no event without a hook (spec/10_state.md R33, R36; spec/44_system.md R166; that the CR bits
keep their reset value is the spec's own decision D2). -/
def Obligations.StepKeepsTheInvariant : Prop :=
  ∀ s t : State, StateInv s → Sys2Proof.Machine.step s = .next t → StateInv t

/-! ### Reset -/

/-- R43: the general registers are 0, CR is 0x9000 and SP is 0x8000; so bank 2 is selected, bits 13:12 are 0b01, and all
three enables are 0. -/
def Obligations.ResetValuesOfTheRegisters : Prop :=
  (∀ r, State.reset.reg r = 0x0000#16) ∧ State.reset.cr = 0x9000#16 ∧ State.reset.sp = 0x8000#16 ∧
  State.reset.bank = 2#2 ∧ State.reset.cr.extractLsb' 12 2 = 0b01#2 ∧
  State.reset.tie .timer1 = false ∧ State.reset.tie .timer0 = false ∧ State.reset.gie = false

/-- After reset IP is 0, nothing is pending, the core runs and no fault is latched (spec/10_state.md R44, the spec's own
decisions D10, D11 and D27), and the invariant holds. -/
def Obligations.ResetMeetsTheInvariant : Prop :=
  State.reset.ip = 0x0000#16 ∧ State.reset.pending = none ∧ State.reset.running = true ∧ State.reset.fault = none ∧
  StateInv State.reset

/-- Reset with an image: bank 0 is the image byte for byte, banks 1 to 3 are INIT_MEM, whatever it is, the registers have
the configuration's reset values and the invariant holds; an image of another size is refused
(spec/70_reset_and_hazards.md R220, R222, decisions D12 and D25). -/
def Obligations.LaunchLoadsTheImage : Prop :=
  ∀ (cfg : Config) (image initMem : List Byte),
    (image.length = 65536 → initMem.length = 3 * 65536 →
      ∃ s, State.launch cfg image initMem = some s ∧
        (∀ a : Word, some (s.memByte 0#2 a) = image[a.toNat]?) ∧
        (∀ (b : Bank) (a : Word), b ≠ 0#2 → some (s.memByte b a) = initMem[65536 * (b.toNat - 1) + a.toNat]?) ∧
        (∀ r, s.reg r = cfg.resetW) ∧ s.ip = cfg.resetIp ∧ s.cr = cfg.resetCr ∧ s.sp = cfg.resetSp ∧
        s.pending = none ∧ s.running = true ∧ s.fault = none ∧ s.cfg = cfg ∧ StateInv s) ∧
    (image.length ≠ 65536 → State.launch cfg image initMem = none)
end

