-- ==== Sys2Proof/Laws/State.lean ====
section
/-! SUPPORT. What each named update of the state leaves in each field. -/

namespace Sys2Proof.Machine

variable (s : State)

/-! ### Updates of one special field -/

@[simp] theorem setIp_cfg (v : Word) : (s.setIp v).cfg = s.cfg := rfl
@[simp] theorem setIp_w0 (v : Word) : (s.setIp v).w0 = s.w0 := rfl
@[simp] theorem setIp_w1 (v : Word) : (s.setIp v).w1 = s.w1 := rfl
@[simp] theorem setIp_w2 (v : Word) : (s.setIp v).w2 = s.w2 := rfl
@[simp] theorem setIp_w3 (v : Word) : (s.setIp v).w3 = s.w3 := rfl
@[simp] theorem setIp_ip (v : Word) : (s.setIp v).ip = v := rfl
@[simp] theorem setIp_cr (v : Word) : (s.setIp v).cr = s.cr := rfl
@[simp] theorem setIp_sp (v : Word) : (s.setIp v).sp = s.sp := rfl
@[simp] theorem setIp_mem (v : Word) : (s.setIp v).mem = s.mem := rfl
@[simp] theorem setIp_pending (v : Word) : (s.setIp v).pending = s.pending := rfl
@[simp] theorem setIp_running (v : Word) : (s.setIp v).running = s.running := rfl
@[simp] theorem setIp_fault (v : Word) : (s.setIp v).fault = s.fault := rfl
@[simp] theorem setIp_brkEvents (v : Word) : (s.setIp v).brkEvents = s.brkEvents := rfl
@[simp] theorem setIp_inputs (v : Word) : (s.setIp v).inputs = s.inputs := rfl
@[simp] theorem setIp_freeIndex (v : Word) : (s.setIp v).freeIndex = s.freeIndex := rfl
@[simp] theorem setIp_reg (v : Word) (r : Reg) : (s.setIp v).reg r = s.reg r := by cases r <;> rfl

@[simp] theorem setCr_cfg (v : Word) : (s.setCr v).cfg = s.cfg := rfl
@[simp] theorem setCr_w0 (v : Word) : (s.setCr v).w0 = s.w0 := rfl
@[simp] theorem setCr_w1 (v : Word) : (s.setCr v).w1 = s.w1 := rfl
@[simp] theorem setCr_w2 (v : Word) : (s.setCr v).w2 = s.w2 := rfl
@[simp] theorem setCr_w3 (v : Word) : (s.setCr v).w3 = s.w3 := rfl
@[simp] theorem setCr_ip (v : Word) : (s.setCr v).ip = s.ip := rfl
@[simp] theorem setCr_cr (v : Word) : (s.setCr v).cr = v := rfl
@[simp] theorem setCr_sp (v : Word) : (s.setCr v).sp = s.sp := rfl
@[simp] theorem setCr_mem (v : Word) : (s.setCr v).mem = s.mem := rfl
@[simp] theorem setCr_pending (v : Word) : (s.setCr v).pending = s.pending := rfl
@[simp] theorem setCr_running (v : Word) : (s.setCr v).running = s.running := rfl
@[simp] theorem setCr_fault (v : Word) : (s.setCr v).fault = s.fault := rfl
@[simp] theorem setCr_brkEvents (v : Word) : (s.setCr v).brkEvents = s.brkEvents := rfl
@[simp] theorem setCr_inputs (v : Word) : (s.setCr v).inputs = s.inputs := rfl
@[simp] theorem setCr_freeIndex (v : Word) : (s.setCr v).freeIndex = s.freeIndex := rfl
@[simp] theorem setCr_reg (v : Word) (r : Reg) : (s.setCr v).reg r = s.reg r := by cases r <;> rfl

@[simp] theorem setSp_cfg (v : Word) : (s.setSp v).cfg = s.cfg := rfl
@[simp] theorem setSp_w0 (v : Word) : (s.setSp v).w0 = s.w0 := rfl
@[simp] theorem setSp_w1 (v : Word) : (s.setSp v).w1 = s.w1 := rfl
@[simp] theorem setSp_w2 (v : Word) : (s.setSp v).w2 = s.w2 := rfl
@[simp] theorem setSp_w3 (v : Word) : (s.setSp v).w3 = s.w3 := rfl
@[simp] theorem setSp_ip (v : Word) : (s.setSp v).ip = s.ip := rfl
@[simp] theorem setSp_cr (v : Word) : (s.setSp v).cr = s.cr := rfl
@[simp] theorem setSp_sp (v : Word) : (s.setSp v).sp = v := rfl
@[simp] theorem setSp_mem (v : Word) : (s.setSp v).mem = s.mem := rfl
@[simp] theorem setSp_pending (v : Word) : (s.setSp v).pending = s.pending := rfl
@[simp] theorem setSp_running (v : Word) : (s.setSp v).running = s.running := rfl
@[simp] theorem setSp_fault (v : Word) : (s.setSp v).fault = s.fault := rfl
@[simp] theorem setSp_brkEvents (v : Word) : (s.setSp v).brkEvents = s.brkEvents := rfl
@[simp] theorem setSp_inputs (v : Word) : (s.setSp v).inputs = s.inputs := rfl
@[simp] theorem setSp_freeIndex (v : Word) : (s.setSp v).freeIndex = s.freeIndex := rfl
@[simp] theorem setSp_reg (v : Word) (r : Reg) : (s.setSp v).reg r = s.reg r := by cases r <;> rfl

@[simp] theorem setPending_cfg (p : Option Timer) : (s.setPending p).cfg = s.cfg := rfl
@[simp] theorem setPending_w0 (p : Option Timer) : (s.setPending p).w0 = s.w0 := rfl
@[simp] theorem setPending_w1 (p : Option Timer) : (s.setPending p).w1 = s.w1 := rfl
@[simp] theorem setPending_w2 (p : Option Timer) : (s.setPending p).w2 = s.w2 := rfl
@[simp] theorem setPending_w3 (p : Option Timer) : (s.setPending p).w3 = s.w3 := rfl
@[simp] theorem setPending_ip (p : Option Timer) : (s.setPending p).ip = s.ip := rfl
@[simp] theorem setPending_cr (p : Option Timer) : (s.setPending p).cr = s.cr := rfl
@[simp] theorem setPending_sp (p : Option Timer) : (s.setPending p).sp = s.sp := rfl
@[simp] theorem setPending_mem (p : Option Timer) : (s.setPending p).mem = s.mem := rfl
@[simp] theorem setPending_pending (p : Option Timer) : (s.setPending p).pending = p := rfl
@[simp] theorem setPending_running (p : Option Timer) : (s.setPending p).running = s.running := rfl
@[simp] theorem setPending_fault (p : Option Timer) : (s.setPending p).fault = s.fault := rfl
@[simp] theorem setPending_brkEvents (p : Option Timer) : (s.setPending p).brkEvents = s.brkEvents := rfl
@[simp] theorem setPending_inputs (p : Option Timer) : (s.setPending p).inputs = s.inputs := rfl
@[simp] theorem setPending_freeIndex (p : Option Timer) : (s.setPending p).freeIndex = s.freeIndex := rfl
@[simp] theorem setPending_reg (p : Option Timer) (r : Reg) : (s.setPending p).reg r = s.reg r := by cases r <;> rfl

@[simp] theorem setRunning_cfg (x : Bool) : (s.setRunning x).cfg = s.cfg := rfl
@[simp] theorem setRunning_w0 (x : Bool) : (s.setRunning x).w0 = s.w0 := rfl
@[simp] theorem setRunning_w1 (x : Bool) : (s.setRunning x).w1 = s.w1 := rfl
@[simp] theorem setRunning_w2 (x : Bool) : (s.setRunning x).w2 = s.w2 := rfl
@[simp] theorem setRunning_w3 (x : Bool) : (s.setRunning x).w3 = s.w3 := rfl
@[simp] theorem setRunning_ip (x : Bool) : (s.setRunning x).ip = s.ip := rfl
@[simp] theorem setRunning_cr (x : Bool) : (s.setRunning x).cr = s.cr := rfl
@[simp] theorem setRunning_sp (x : Bool) : (s.setRunning x).sp = s.sp := rfl
@[simp] theorem setRunning_mem (x : Bool) : (s.setRunning x).mem = s.mem := rfl
@[simp] theorem setRunning_pending (x : Bool) : (s.setRunning x).pending = s.pending := rfl
@[simp] theorem setRunning_running (x : Bool) : (s.setRunning x).running = x := rfl
@[simp] theorem setRunning_fault (x : Bool) : (s.setRunning x).fault = s.fault := rfl
@[simp] theorem setRunning_brkEvents (x : Bool) : (s.setRunning x).brkEvents = s.brkEvents := rfl
@[simp] theorem setRunning_inputs (x : Bool) : (s.setRunning x).inputs = s.inputs := rfl
@[simp] theorem setRunning_freeIndex (x : Bool) : (s.setRunning x).freeIndex = s.freeIndex := rfl
@[simp] theorem setRunning_reg (x : Bool) (r : Reg) : (s.setRunning x).reg r = s.reg r := by cases r <;> rfl

@[simp] theorem setInputs_cfg (is : List CycleInputs) : (s.setInputs is).cfg = s.cfg := rfl
@[simp] theorem setInputs_w0 (is : List CycleInputs) : (s.setInputs is).w0 = s.w0 := rfl
@[simp] theorem setInputs_w1 (is : List CycleInputs) : (s.setInputs is).w1 = s.w1 := rfl
@[simp] theorem setInputs_w2 (is : List CycleInputs) : (s.setInputs is).w2 = s.w2 := rfl
@[simp] theorem setInputs_w3 (is : List CycleInputs) : (s.setInputs is).w3 = s.w3 := rfl
@[simp] theorem setInputs_ip (is : List CycleInputs) : (s.setInputs is).ip = s.ip := rfl
@[simp] theorem setInputs_cr (is : List CycleInputs) : (s.setInputs is).cr = s.cr := rfl
@[simp] theorem setInputs_sp (is : List CycleInputs) : (s.setInputs is).sp = s.sp := rfl
@[simp] theorem setInputs_mem (is : List CycleInputs) : (s.setInputs is).mem = s.mem := rfl
@[simp] theorem setInputs_pending (is : List CycleInputs) : (s.setInputs is).pending = s.pending := rfl
@[simp] theorem setInputs_running (is : List CycleInputs) : (s.setInputs is).running = s.running := rfl
@[simp] theorem setInputs_fault (is : List CycleInputs) : (s.setInputs is).fault = s.fault := rfl
@[simp] theorem setInputs_brkEvents (is : List CycleInputs) : (s.setInputs is).brkEvents = s.brkEvents := rfl
@[simp] theorem setInputs_inputs (is : List CycleInputs) : (s.setInputs is).inputs = is := rfl
@[simp] theorem setInputs_freeIndex (is : List CycleInputs) : (s.setInputs is).freeIndex = s.freeIndex := rfl
@[simp] theorem setInputs_reg (is : List CycleInputs) (r : Reg) : (s.setInputs is).reg r = s.reg r := by cases r <;> rfl

/-! ### Writing a general register -/

@[simp] theorem setReg_cfg (r : Reg) (v : Word) : (s.setReg r v).cfg = s.cfg := by cases r <;> rfl
@[simp] theorem setReg_ip (r : Reg) (v : Word) : (s.setReg r v).ip = s.ip := by cases r <;> rfl
@[simp] theorem setReg_cr (r : Reg) (v : Word) : (s.setReg r v).cr = s.cr := by cases r <;> rfl
@[simp] theorem setReg_sp (r : Reg) (v : Word) : (s.setReg r v).sp = s.sp := by cases r <;> rfl
@[simp] theorem setReg_mem (r : Reg) (v : Word) : (s.setReg r v).mem = s.mem := by cases r <;> rfl
@[simp] theorem setReg_pending (r : Reg) (v : Word) : (s.setReg r v).pending = s.pending := by cases r <;> rfl
@[simp] theorem setReg_running (r : Reg) (v : Word) : (s.setReg r v).running = s.running := by cases r <;> rfl
@[simp] theorem setReg_fault (r : Reg) (v : Word) : (s.setReg r v).fault = s.fault := by cases r <;> rfl
@[simp] theorem setReg_brkEvents (r : Reg) (v : Word) : (s.setReg r v).brkEvents = s.brkEvents := by cases r <;> rfl
@[simp] theorem setReg_inputs (r : Reg) (v : Word) : (s.setReg r v).inputs = s.inputs := by cases r <;> rfl
@[simp] theorem setReg_freeIndex (r : Reg) (v : Word) : (s.setReg r v).freeIndex = s.freeIndex := by cases r <;> rfl

@[simp] theorem setReg_reg_same (r : Reg) (v : Word) : (s.setReg r v).reg r = v := by cases r <;> rfl
@[simp] theorem setReg_reg_other (r d : Reg) (v : Word) (h : r ≠ d) : (s.setReg d v).reg r = s.reg r := by
  cases r <;> cases d <;> first | rfl | exact absurd rfl h

/-! ### Writing memory -/

@[simp] theorem setMemByte_cfg (b : Bank) (a : Word) (v : Byte) : (s.setMemByte b a v).cfg = s.cfg := rfl
@[simp] theorem setMemByte_w0 (b : Bank) (a : Word) (v : Byte) : (s.setMemByte b a v).w0 = s.w0 := rfl
@[simp] theorem setMemByte_w1 (b : Bank) (a : Word) (v : Byte) : (s.setMemByte b a v).w1 = s.w1 := rfl
@[simp] theorem setMemByte_w2 (b : Bank) (a : Word) (v : Byte) : (s.setMemByte b a v).w2 = s.w2 := rfl
@[simp] theorem setMemByte_w3 (b : Bank) (a : Word) (v : Byte) : (s.setMemByte b a v).w3 = s.w3 := rfl
@[simp] theorem setMemByte_ip (b : Bank) (a : Word) (v : Byte) : (s.setMemByte b a v).ip = s.ip := rfl
@[simp] theorem setMemByte_cr (b : Bank) (a : Word) (v : Byte) : (s.setMemByte b a v).cr = s.cr := rfl
@[simp] theorem setMemByte_sp (b : Bank) (a : Word) (v : Byte) : (s.setMemByte b a v).sp = s.sp := rfl
@[simp] theorem setMemByte_pending (b : Bank) (a : Word) (v : Byte) : (s.setMemByte b a v).pending = s.pending := rfl
@[simp] theorem setMemByte_running (b : Bank) (a : Word) (v : Byte) : (s.setMemByte b a v).running = s.running := rfl
@[simp] theorem setMemByte_fault (b : Bank) (a : Word) (v : Byte) : (s.setMemByte b a v).fault = s.fault := rfl
@[simp] theorem setMemByte_brkEvents (b : Bank) (a : Word) (v : Byte) : (s.setMemByte b a v).brkEvents = s.brkEvents := rfl
@[simp] theorem setMemByte_inputs (b : Bank) (a : Word) (v : Byte) : (s.setMemByte b a v).inputs = s.inputs := rfl
@[simp] theorem setMemByte_freeIndex (b : Bank) (a : Word) (v : Byte) : (s.setMemByte b a v).freeIndex = s.freeIndex := rfl
@[simp] theorem setMemByte_reg (b : Bank) (a : Word) (v : Byte) (r : Reg) : (s.setMemByte b a v).reg r = s.reg r := by cases r <;> rfl

@[simp] theorem setMemWord_cfg (b : Bank) (a v : Word) : (s.setMemWord b a v).cfg = s.cfg := rfl
@[simp] theorem setMemWord_w0 (b : Bank) (a v : Word) : (s.setMemWord b a v).w0 = s.w0 := rfl
@[simp] theorem setMemWord_w1 (b : Bank) (a v : Word) : (s.setMemWord b a v).w1 = s.w1 := rfl
@[simp] theorem setMemWord_w2 (b : Bank) (a v : Word) : (s.setMemWord b a v).w2 = s.w2 := rfl
@[simp] theorem setMemWord_w3 (b : Bank) (a v : Word) : (s.setMemWord b a v).w3 = s.w3 := rfl
@[simp] theorem setMemWord_ip (b : Bank) (a v : Word) : (s.setMemWord b a v).ip = s.ip := rfl
@[simp] theorem setMemWord_cr (b : Bank) (a v : Word) : (s.setMemWord b a v).cr = s.cr := rfl
@[simp] theorem setMemWord_sp (b : Bank) (a v : Word) : (s.setMemWord b a v).sp = s.sp := rfl
@[simp] theorem setMemWord_pending (b : Bank) (a v : Word) : (s.setMemWord b a v).pending = s.pending := rfl
@[simp] theorem setMemWord_running (b : Bank) (a v : Word) : (s.setMemWord b a v).running = s.running := rfl
@[simp] theorem setMemWord_fault (b : Bank) (a v : Word) : (s.setMemWord b a v).fault = s.fault := rfl
@[simp] theorem setMemWord_brkEvents (b : Bank) (a v : Word) : (s.setMemWord b a v).brkEvents = s.brkEvents := rfl
@[simp] theorem setMemWord_inputs (b : Bank) (a v : Word) : (s.setMemWord b a v).inputs = s.inputs := rfl
@[simp] theorem setMemWord_freeIndex (b : Bank) (a v : Word) : (s.setMemWord b a v).freeIndex = s.freeIndex := rfl
@[simp] theorem setMemWord_reg (b : Bank) (a v : Word) (r : Reg) : (s.setMemWord b a v).reg r = s.reg r := by cases r <;> rfl

/-! ### ADVANCE, jump, push and drop -/

@[simp] theorem advance_cfg : s.advance.cfg = s.cfg := rfl
@[simp] theorem advance_w0 : s.advance.w0 = s.w0 := rfl
@[simp] theorem advance_w1 : s.advance.w1 = s.w1 := rfl
@[simp] theorem advance_w2 : s.advance.w2 = s.w2 := rfl
@[simp] theorem advance_w3 : s.advance.w3 = s.w3 := rfl
@[simp] theorem advance_ip : s.advance.ip = s.ip + 2#16 := rfl
@[simp] theorem advance_cr : s.advance.cr = s.cr := rfl
@[simp] theorem advance_sp : s.advance.sp = s.sp := rfl
@[simp] theorem advance_mem : s.advance.mem = s.mem := rfl
@[simp] theorem advance_pending : s.advance.pending = s.pending := rfl
@[simp] theorem advance_running : s.advance.running = s.running := rfl
@[simp] theorem advance_fault : s.advance.fault = s.fault := rfl
@[simp] theorem advance_brkEvents : s.advance.brkEvents = s.brkEvents := rfl
@[simp] theorem advance_inputs : s.advance.inputs = s.inputs := rfl
@[simp] theorem advance_freeIndex : s.advance.freeIndex = s.freeIndex := rfl
@[simp] theorem advance_reg (r : Reg) : s.advance.reg r = s.reg r := by cases r <;> rfl

@[simp] theorem jump_cfg (v : Word) : (s.jump v).cfg = s.cfg := rfl
@[simp] theorem jump_w0 (v : Word) : (s.jump v).w0 = s.w0 := rfl
@[simp] theorem jump_w1 (v : Word) : (s.jump v).w1 = s.w1 := rfl
@[simp] theorem jump_w2 (v : Word) : (s.jump v).w2 = s.w2 := rfl
@[simp] theorem jump_w3 (v : Word) : (s.jump v).w3 = s.w3 := rfl
@[simp] theorem jump_ip (v : Word) : (s.jump v).ip = v := rfl
@[simp] theorem jump_cr (v : Word) : (s.jump v).cr = s.cr := rfl
@[simp] theorem jump_sp (v : Word) : (s.jump v).sp = s.sp := rfl
@[simp] theorem jump_mem (v : Word) : (s.jump v).mem = s.mem := rfl
@[simp] theorem jump_pending (v : Word) : (s.jump v).pending = s.pending := rfl
@[simp] theorem jump_running (v : Word) : (s.jump v).running = s.running := rfl
@[simp] theorem jump_fault (v : Word) : (s.jump v).fault = s.fault := rfl
@[simp] theorem jump_brkEvents (v : Word) : (s.jump v).brkEvents = s.brkEvents := rfl
@[simp] theorem jump_inputs (v : Word) : (s.jump v).inputs = s.inputs := rfl
@[simp] theorem jump_freeIndex (v : Word) : (s.jump v).freeIndex = s.freeIndex := rfl
@[simp] theorem jump_reg (v : Word) (r : Reg) : (s.jump v).reg r = s.reg r := by cases r <;> rfl

@[simp] theorem drop_cfg : s.drop.cfg = s.cfg := rfl
@[simp] theorem drop_w0 : s.drop.w0 = s.w0 := rfl
@[simp] theorem drop_w1 : s.drop.w1 = s.w1 := rfl
@[simp] theorem drop_w2 : s.drop.w2 = s.w2 := rfl
@[simp] theorem drop_w3 : s.drop.w3 = s.w3 := rfl
@[simp] theorem drop_ip : s.drop.ip = s.ip := rfl
@[simp] theorem drop_cr : s.drop.cr = s.cr := rfl
@[simp] theorem drop_sp : s.drop.sp = s.sp - 2#16 := rfl
@[simp] theorem drop_mem : s.drop.mem = s.mem := rfl
@[simp] theorem drop_pending : s.drop.pending = s.pending := rfl
@[simp] theorem drop_running : s.drop.running = s.running := rfl
@[simp] theorem drop_fault : s.drop.fault = s.fault := rfl
@[simp] theorem drop_brkEvents : s.drop.brkEvents = s.brkEvents := rfl
@[simp] theorem drop_inputs : s.drop.inputs = s.inputs := rfl
@[simp] theorem drop_freeIndex : s.drop.freeIndex = s.freeIndex := rfl
@[simp] theorem drop_reg (r : Reg) : s.drop.reg r = s.reg r := by cases r <;> rfl

@[simp] theorem push_cfg (v : Word) : (s.push v).cfg = s.cfg := rfl
@[simp] theorem push_w0 (v : Word) : (s.push v).w0 = s.w0 := rfl
@[simp] theorem push_w1 (v : Word) : (s.push v).w1 = s.w1 := rfl
@[simp] theorem push_w2 (v : Word) : (s.push v).w2 = s.w2 := rfl
@[simp] theorem push_w3 (v : Word) : (s.push v).w3 = s.w3 := rfl
@[simp] theorem push_ip (v : Word) : (s.push v).ip = s.ip := rfl
@[simp] theorem push_cr (v : Word) : (s.push v).cr = s.cr := rfl
@[simp] theorem push_sp (v : Word) : (s.push v).sp = s.sp + 2#16 := rfl
@[simp] theorem push_pending (v : Word) : (s.push v).pending = s.pending := rfl
@[simp] theorem push_running (v : Word) : (s.push v).running = s.running := rfl
@[simp] theorem push_fault (v : Word) : (s.push v).fault = s.fault := rfl
@[simp] theorem push_brkEvents (v : Word) : (s.push v).brkEvents = s.brkEvents := rfl
@[simp] theorem push_inputs (v : Word) : (s.push v).inputs = s.inputs := rfl
@[simp] theorem push_freeIndex (v : Word) : (s.push v).freeIndex = s.freeIndex := rfl
@[simp] theorem push_reg (v : Word) (r : Reg) : (s.push v).reg r = s.reg r := by cases r <;> rfl

/-! ### What the accessors read depends on few fields -/

@[simp] theorem setIp_memByte (v : Word) (b : Bank) (a : Word) : (s.setIp v).memByte b a = s.memByte b a := rfl
@[simp] theorem setIp_memWord (v : Word) (b : Bank) (a : Word) : (s.setIp v).memWord b a = s.memWord b a := rfl
@[simp] theorem setIp_bank (v : Word) : (s.setIp v).bank = s.bank := rfl
@[simp] theorem setIp_gie (v : Word) : (s.setIp v).gie = s.gie := rfl
@[simp] theorem setIp_tie (v : Word) (i : Timer) : (s.setIp v).tie i = s.tie i := rfl
@[simp] theorem setSp_memByte (v : Word) (b : Bank) (a : Word) : (s.setSp v).memByte b a = s.memByte b a := rfl
@[simp] theorem setSp_memWord (v : Word) (b : Bank) (a : Word) : (s.setSp v).memWord b a = s.memWord b a := rfl
@[simp] theorem setSp_bank (v : Word) : (s.setSp v).bank = s.bank := rfl
@[simp] theorem setSp_gie (v : Word) : (s.setSp v).gie = s.gie := rfl
@[simp] theorem setSp_tie (v : Word) (i : Timer) : (s.setSp v).tie i = s.tie i := rfl
@[simp] theorem setCr_memByte (v : Word) (b : Bank) (a : Word) : (s.setCr v).memByte b a = s.memByte b a := rfl
@[simp] theorem setCr_memWord (v : Word) (b : Bank) (a : Word) : (s.setCr v).memWord b a = s.memWord b a := rfl
@[simp] theorem setPending_memByte (p : Option Timer) (b : Bank) (a : Word) : (s.setPending p).memByte b a = s.memByte b a := rfl
@[simp] theorem setPending_memWord (p : Option Timer) (b : Bank) (a : Word) : (s.setPending p).memWord b a = s.memWord b a := rfl
@[simp] theorem setPending_bank (p : Option Timer) : (s.setPending p).bank = s.bank := rfl
@[simp] theorem setPending_gie (p : Option Timer) : (s.setPending p).gie = s.gie := rfl
@[simp] theorem setPending_tie (p : Option Timer) (i : Timer) : (s.setPending p).tie i = s.tie i := rfl
@[simp] theorem setRunning_memByte (x : Bool) (b : Bank) (a : Word) : (s.setRunning x).memByte b a = s.memByte b a := rfl
@[simp] theorem setRunning_memWord (x : Bool) (b : Bank) (a : Word) : (s.setRunning x).memWord b a = s.memWord b a := rfl
@[simp] theorem setRunning_bank (x : Bool) : (s.setRunning x).bank = s.bank := rfl
@[simp] theorem setRunning_gie (x : Bool) : (s.setRunning x).gie = s.gie := rfl
@[simp] theorem setRunning_tie (x : Bool) (i : Timer) : (s.setRunning x).tie i = s.tie i := rfl
@[simp] theorem setInputs_memByte (is : List CycleInputs) (b : Bank) (a : Word) : (s.setInputs is).memByte b a = s.memByte b a := rfl
@[simp] theorem setInputs_memWord (is : List CycleInputs) (b : Bank) (a : Word) : (s.setInputs is).memWord b a = s.memWord b a := rfl
@[simp] theorem setInputs_bank (is : List CycleInputs) : (s.setInputs is).bank = s.bank := rfl
@[simp] theorem setInputs_gie (is : List CycleInputs) : (s.setInputs is).gie = s.gie := rfl
@[simp] theorem setInputs_tie (is : List CycleInputs) (i : Timer) : (s.setInputs is).tie i = s.tie i := rfl
@[simp] theorem advance_memByte (b : Bank) (a : Word) : s.advance.memByte b a = s.memByte b a := rfl
@[simp] theorem advance_memWord (b : Bank) (a : Word) : s.advance.memWord b a = s.memWord b a := rfl
@[simp] theorem advance_bank : s.advance.bank = s.bank := rfl
@[simp] theorem advance_gie : s.advance.gie = s.gie := rfl
@[simp] theorem advance_tie (i : Timer) : s.advance.tie i = s.tie i := rfl
@[simp] theorem jump_memByte (v : Word) (b : Bank) (a : Word) : (s.jump v).memByte b a = s.memByte b a := rfl
@[simp] theorem jump_memWord (v : Word) (b : Bank) (a : Word) : (s.jump v).memWord b a = s.memWord b a := rfl
@[simp] theorem jump_bank (v : Word) : (s.jump v).bank = s.bank := rfl
@[simp] theorem jump_gie (v : Word) : (s.jump v).gie = s.gie := rfl
@[simp] theorem jump_tie (v : Word) (i : Timer) : (s.jump v).tie i = s.tie i := rfl
@[simp] theorem drop_memByte (b : Bank) (a : Word) : s.drop.memByte b a = s.memByte b a := rfl
@[simp] theorem drop_memWord (b : Bank) (a : Word) : s.drop.memWord b a = s.memWord b a := rfl
@[simp] theorem drop_bank : s.drop.bank = s.bank := rfl
@[simp] theorem drop_gie : s.drop.gie = s.gie := rfl
@[simp] theorem drop_tie (i : Timer) : s.drop.tie i = s.tie i := rfl

@[simp] theorem setReg_memByte (r : Reg) (v : Word) (b : Bank) (a : Word) :
    (s.setReg r v).memByte b a = s.memByte b a := by cases r <;> rfl
@[simp] theorem setReg_memWord (r : Reg) (v : Word) (b : Bank) (a : Word) :
    (s.setReg r v).memWord b a = s.memWord b a := by cases r <;> rfl
@[simp] theorem setReg_bank (r : Reg) (v : Word) : (s.setReg r v).bank = s.bank := by cases r <;> rfl
@[simp] theorem setReg_gie (r : Reg) (v : Word) : (s.setReg r v).gie = s.gie := by cases r <;> rfl
@[simp] theorem setReg_tie (r : Reg) (v : Word) (i : Timer) : (s.setReg r v).tie i = s.tie i := by cases r <;> rfl
@[simp] theorem setMemByte_bank (b : Bank) (a : Word) (v : Byte) : (s.setMemByte b a v).bank = s.bank := rfl
@[simp] theorem setMemWord_bank (b : Bank) (a v : Word) : (s.setMemWord b a v).bank = s.bank := rfl
@[simp] theorem push_bank (v : Word) : (s.push v).bank = s.bank := rfl
@[simp] theorem push_gie (v : Word) : (s.push v).gie = s.gie := rfl
@[simp] theorem push_tie (v : Word) (i : Timer) : (s.push v).tie i = s.tie i := rfl

end Sys2Proof.Machine
end

