-- ==== Sys2Proof/Laws/Memory.lean ====
section
/-! SUPPORT. Read after write, the canonical form of memory, and what a loaded byte string reads as. -/

namespace Sys2Proof.Machine

/-! ### One byte -/

theorem read_erase_same (m : Memory) (a : Nat) : (m.erase a).read a = Memory.unlisted a := by
  induction m with
  | nil => rfl
  | cons c m ih =>
    obtain ⟨k, v⟩ := c
    by_cases h : k = a
    · simpa [Memory.erase, h] using ih
    · simpa [Memory.erase, h, Memory.read] using ih

theorem read_erase_other (m : Memory) (a c : Nat) (h : c ≠ a) : (m.erase a).read c = m.read c := by
  induction m with
  | nil => rfl
  | cons x m ih =>
    obtain ⟨k, v⟩ := x
    by_cases hk : k = a
    · have hc : ¬ k = c := fun e => h (e.symm.trans hk)
      simpa [Memory.erase, hk, Memory.read, Ne.symm h] using ih
    · by_cases hc : k = c
      · simp [Memory.erase, Memory.read, hc, h]
      · simpa [Memory.erase, hk, Memory.read, hc] using ih

theorem read_insert_same (m : Memory) (a : Nat) (v : Byte) (h : ∀ c ∈ m, c.1 ≠ a) : (m.insert a v).read a = v := by
  induction m with
  | nil => simp [Memory.insert, Memory.read]
  | cons x m ih =>
    obtain ⟨k, y⟩ := x
    have hk : k ≠ a := h (k, y) (by simp)
    have := ih (fun c hc => h c (by simp [hc]))
    by_cases hl : a < k <;> simp [Memory.insert, hl, Memory.read, hk, this]

theorem read_insert_other (m : Memory) (a c : Nat) (v : Byte) (h : c ≠ a) : (m.insert a v).read c = m.read c := by
  induction m with
  | nil => simp [Memory.insert, Memory.read, Ne.symm h]
  | cons x m ih =>
    obtain ⟨k, y⟩ := x
    by_cases hl : a < k <;> simp [Memory.insert, hl, Memory.read, ih, Ne.symm h]

theorem mem_erase_ne (m : Memory) (a : Nat) : ∀ c ∈ m.erase a, c.1 ≠ a := by
  intro c hc
  simp [Memory.erase] at hc
  exact hc.2

/-- A read after a write to the same key gives the value written. -/
@[simp] theorem read_write_same (m : Memory) (a : Nat) (v : Byte) : (m.write a v).read a = v := by
  unfold Memory.write
  split
  · rename_i h; rw [read_erase_same, h]
  · exact read_insert_same _ _ _ (mem_erase_ne m a)

/-- A write leaves every other key alone (spec/20_memory.md R59). -/
theorem read_write_other (m : Memory) (a c : Nat) (v : Byte) (h : c ≠ a) : (m.write a v).read c = m.read c := by
  unfold Memory.write
  split
  · exact read_erase_other m a c h
  · rw [read_insert_other _ _ _ _ h, read_erase_other m a c h]

/-! ### The canonical form -/

theorem wfFrom_mono {lo lo' : Nat} {m : Memory} (h : m.wfFrom lo' = true) (hl : lo ≤ lo') : m.wfFrom lo = true := by
  cases m with
  | nil => rfl
  | cons c m =>
    obtain ⟨k, v⟩ := c
    simp only [Memory.wfFrom, Bool.and_eq_true, decide_eq_true_eq] at h ⊢
    exact ⟨⟨⟨by omega, h.1.1.2⟩, h.1.2⟩, h.2⟩

theorem wfFrom_erase {lo : Nat} {m : Memory} (a : Nat) (h : m.wfFrom lo = true) : (m.erase a).wfFrom lo = true := by
  induction m generalizing lo with
  | nil => rfl
  | cons c m ih =>
    obtain ⟨k, v⟩ := c
    have h0 := h
    simp only [Memory.wfFrom, Bool.and_eq_true, decide_eq_true_eq] at h
    have := ih h.2
    by_cases hk : k = a
    · have e : Memory.erase ((k, v) :: m) a = Memory.erase m a := by simp [Memory.erase, hk]
      rw [e]; exact wfFrom_mono this (by omega)
    · have e : Memory.erase ((k, v) :: m) a = (k, v) :: Memory.erase m a := by simp [Memory.erase, hk]
      rw [e]; simp only [Memory.wfFrom, Bool.and_eq_true, decide_eq_true_eq]
      exact ⟨h.1, this⟩

theorem wfFrom_insert {lo : Nat} {m : Memory} {a : Nat} {v : Byte} (h : m.wfFrom lo = true) (ha : ∀ c ∈ m, c.1 ≠ a)
    (hlo : lo ≤ a) (hs : a < Config.nbanks * Config.bankSize) (hv : v ≠ Memory.unlisted a) :
    (m.insert a v).wfFrom lo = true := by
  induction m generalizing lo with
  | nil => simp [Memory.insert, Memory.wfFrom, hlo, hs, hv]
  | cons c m ih =>
    obtain ⟨k, x⟩ := c
    have hk : k ≠ a := ha (k, x) (by simp)
    simp only [Memory.wfFrom, Bool.and_eq_true, decide_eq_true_eq] at h
    by_cases hl : a < k
    · simp only [Memory.insert, hl, if_true, Memory.wfFrom, Bool.and_eq_true, decide_eq_true_eq]
      exact ⟨⟨⟨hlo, hs⟩, hv⟩, ⟨⟨⟨by omega, h.1.1.2⟩, h.1.2⟩, h.2⟩⟩
    · simp only [Memory.insert, hl, if_false, Memory.wfFrom, Bool.and_eq_true, decide_eq_true_eq]
      exact ⟨h.1, ih h.2 (fun c hc => ha c (by simp [hc])) (by omega)⟩

/-- Every write keeps the canonical form. -/
theorem wf_write {m : Memory} {a : Nat} (v : Byte) (h : m.wf = true) (hs : a < Config.nbanks * Config.bankSize) :
    (m.write a v).wf = true := by
  unfold Memory.write
  split
  · exact wfFrom_erase a h
  · rename_i hv
    exact wfFrom_insert (wfFrom_erase a h) (mem_erase_ne m a) (Nat.zero_le _) hs hv

theorem wfFrom_ofBytes (vs : List Byte) (a : Nat) (h : a + vs.length ≤ Config.nbanks * Config.bankSize) :
    (Memory.ofBytes a vs).wfFrom a = true := by
  induction vs generalizing a with
  | nil => rfl
  | cons v vs ih =>
    simp only [List.length_cons] at h
    have := ih (a + 1) (by omega)
    unfold Memory.ofBytes
    split
    · exact wfFrom_mono this (by omega)
    · simp only [Memory.wfFrom, Bool.and_eq_true, decide_eq_true_eq]
      exact ⟨⟨⟨Nat.le_refl _, by omega⟩, by assumption⟩, this⟩

theorem read_ofBytes_below (vs : List Byte) (a c : Nat) (h : c < a) :
    (Memory.ofBytes a vs).read c = Memory.unlisted c := by
  induction vs generalizing a with
  | nil => rfl
  | cons v vs ih =>
    have := ih (a + 1) (by omega)
    unfold Memory.ofBytes
    split
    · exact this
    · simp [Memory.read, this, show a ≠ c by omega]

/-- A loaded byte string reads back byte for byte. -/
theorem read_ofBytes (vs : List Byte) (a i : Nat) (h : i < vs.length) :
    (Memory.ofBytes a vs).read (a + i) = vs[i] := by
  induction vs generalizing a i with
  | nil => simp at h
  | cons v vs ih =>
    cases i with
    | zero =>
      simp only [Memory.ofBytes, Nat.add_zero, List.getElem_cons_zero]
      split
      · rename_i hv; rw [read_ofBytes_below _ _ _ (by omega), hv]
      · simp [Memory.read]
    | succ i =>
      have := ih (a + 1) i (by simpa using h)
      rw [show a + 1 + i = a + (i + 1) by omega] at this
      simp only [Memory.ofBytes, List.getElem_cons_succ]
      split
      · exact this
      · rw [Memory.read, if_neg (by omega)]; exact this

/-! ### Bank and offset -/

/-- No two cells share a key (spec/20_memory.md R50). -/
@[simp] theorem cellKey_inj (b b' : Bank) (a a' : Word) : cellKey b a = cellKey b' a' ↔ b = b' ∧ a = a' := by
  constructor
  · intro h
    simp only [cellKey, Config.bankSize] at h
    have ha := a.isLt
    have ha' := a'.isLt
    exact ⟨BitVec.eq_of_toNat_eq (by omega), BitVec.eq_of_toNat_eq (by omega)⟩
  · rintro ⟨rfl, rfl⟩; rfl

theorem cellKey_lt (b : Bank) (a : Word) : cellKey b a < Config.nbanks * Config.bankSize := by
  have hb := b.isLt
  have ha := a.isLt
  simp only [cellKey, Config.bankSize, Config.nbanks]
  omega

theorem word_succ_ne (a : Word) : a + 1#16 ≠ a := by bv_omega

@[simp] theorem setMemByte_memByte_same (s : State) (b : Bank) (a : Word) (v : Byte) :
    (s.setMemByte b a v).memByte b a = v := by simp [State.memByte, State.setMemByte]

theorem setMemByte_memByte_other (s : State) (b b' : Bank) (a a' : Word) (v : Byte) (h : ¬(b' = b ∧ a' = a)) :
    (s.setMemByte b a v).memByte b' a' = s.memByte b' a' := by
  simp only [State.memByte, State.setMemByte]
  exact read_write_other _ _ _ _ (by simpa using h)

@[simp] theorem setMemWord_memByte_hi (s : State) (b : Bank) (a v : Word) :
    (s.setMemWord b a v).memByte b a = hiByte v := by
  unfold State.setMemWord
  rw [setMemByte_memByte_other _ _ _ _ _ _ (by simp), setMemByte_memByte_same]

@[simp] theorem setMemWord_memByte_lo (s : State) (b : Bank) (a v : Word) :
    (s.setMemWord b a v).memByte b (a + 1#16) = loByte v := by
  unfold State.setMemWord
  rw [setMemByte_memByte_same]

/-- A word store changes its two bytes only (spec/20_memory.md R53, R59). -/
theorem setMemWord_memByte_other (s : State) (b b' : Bank) (a a' v : Word)
    (h : ¬(b' = b ∧ (a' = a ∨ a' = a + 1#16))) : (s.setMemWord b a v).memByte b' a' = s.memByte b' a' := by
  unfold State.setMemWord
  rw [setMemByte_memByte_other _ _ _ _ _ _ (fun e => h ⟨e.1, Or.inr e.2⟩),
    setMemByte_memByte_other _ _ _ _ _ _ (fun e => h ⟨e.1, Or.inl e.2⟩)]

theorem joinBytes_getLsbD (h l : Byte) (i : Nat) :
    (joinBytes h l).getLsbD i = if i < 8 then l.getLsbD i else h.getLsbD (i - 8) :=
  BitVec.getLsbD_append

@[simp] theorem joinBytes_hi_lo (w : Word) : joinBytes (hiByte w) (loByte w) = w := by
  apply BitVec.eq_of_getLsbD_eq
  intro i hi
  rw [joinBytes_getLsbD]
  by_cases h : i < 8
  · simp [h, loByte]
  · simp [h, hiByte, show i - 8 < 8 by omega, show 8 + (i - 8) = i by omega]

@[simp] theorem hiByte_joinBytes (h l : Byte) : hiByte (joinBytes h l) = h := by
  apply BitVec.eq_of_getLsbD_eq
  intro i hi
  simp [hiByte, joinBytes_getLsbD, hi]

@[simp] theorem loByte_joinBytes (h l : Byte) : loByte (joinBytes h l) = l := by
  apply BitVec.eq_of_getLsbD_eq
  intro i hi
  simp [loByte, joinBytes_getLsbD, hi]

theorem joinBytes_and (a b c d : Byte) : joinBytes a b &&& joinBytes c d = joinBytes (a &&& c) (b &&& d) := by
  apply BitVec.eq_of_getLsbD_eq
  intro i hi
  simp only [BitVec.getLsbD_and, joinBytes_getLsbD]
  split <;> rfl

theorem joinBytes_eq_ofNat (h l : Byte) : joinBytes h l = BitVec.ofNat 16 (256 * h.toNat + l.toNat) := by
  apply BitVec.eq_of_toNat_eq
  have e : (joinBytes h l).toNat = h.toNat <<< 8 ||| l.toNat := BitVec.toNat_append h l
  have hl := l.isLt
  have hh := h.isLt
  rw [e, ← Nat.shiftLeft_add_eq_or_of_lt hl, Nat.shiftLeft_eq, BitVec.toNat_ofNat]
  omega

/-- A word read after a word store at the same place gives the word (spec/20_memory.md R52, R53). -/
@[simp] theorem setMemWord_memWord_same (s : State) (b : Bank) (a v : Word) :
    (s.setMemWord b a v).memWord b a = v := by simp [State.memWord]

theorem setMemByte_wf (s : State) (b : Bank) (a : Word) (v : Byte) (h : s.mem.wf = true) :
    (s.setMemByte b a v).mem.wf = true := wf_write v h (cellKey_lt b a)

theorem setMemWord_wf (s : State) (b : Bank) (a v : Word) (h : s.mem.wf = true) :
    (s.setMemWord b a v).mem.wf = true := setMemByte_wf _ _ _ _ (setMemByte_wf _ _ _ _ h)

end Sys2Proof.Machine
end

