-- ==== Sys2Proof/Laws/Ops.lean ====
section
/-! SUPPORT. For each shared operation, once, everything it does: push and drop, the branch, ticks and forced halts,
interrupt entry and return, the IllegalOpcode fault, the breakpoint event. -/

namespace Sys2Proof.Machine

variable (s : State)

/-! ### The stack engine (spec/43_stack.md R150, R151) -/

/-- A push stores the word at the new SP in the selected bank. -/
@[simp] theorem push_memWord_top (v : Word) : (s.push v).memWord s.bank (s.sp + 2#16) = v :=
  setMemWord_memWord_same (s.setSp (s.sp + 2#16)) s.bank (s.sp + 2#16) v

@[simp] theorem push_memByte_hi (v : Word) : (s.push v).memByte s.bank (s.sp + 2#16) = hiByte v :=
  setMemWord_memByte_hi (s.setSp (s.sp + 2#16)) s.bank (s.sp + 2#16) v

@[simp] theorem push_memByte_lo (v : Word) : (s.push v).memByte s.bank (s.sp + 2#16 + 1#16) = loByte v :=
  setMemWord_memByte_lo (s.setSp (s.sp + 2#16)) s.bank (s.sp + 2#16) v

/-- A push changes the two bytes at the new SP only. -/
theorem push_memByte_other (v : Word) (b : Bank) (a : Word)
    (h : ¬(b = s.bank ∧ (a = s.sp + 2#16 ∨ a = s.sp + 2#16 + 1#16))) : (s.push v).memByte b a = s.memByte b a :=
  setMemWord_memByte_other (s.setSp (s.sp + 2#16)) s.bank b (s.sp + 2#16) a v h

theorem push_wf (v : Word) (h : s.mem.wf = true) : (s.push v).mem.wf = true :=
  setMemWord_wf (s.setSp (s.sp + 2#16)) s.bank (s.sp + 2#16) v h

/-- What was pushed is on top. -/
@[simp] theorem push_top (v : Word) : (s.push v).top = v := push_memWord_top s v

@[simp] theorem sp_add_sub (w : Word) : w + 2#16 - 2#16 = w := by bv_omega

/-! ### The branch (spec/41_control_flow.md R120) -/

theorem branchIf_true (v : Word) : s.branchIf true v = s.jump v := rfl
theorem branchIf_false (v : Word) : s.branchIf false v = s.advance := rfl

/-- A branch only sets IP, to its target or to the next instruction. -/
theorem branchIf_eq (c : Bool) (v : Word) : s.branchIf c v = s.setIp (if c then v else s.ip + 2#16) := by
  cases c <;> rfl

/-! ### Control bits (spec/44_system.md R165) -/

theorem getLsbD_bitMask (n i : Nat) : (bitMask n).getLsbD i = (decide (i < 16) && decide (i = n)) := by
  unfold bitMask
  rw [BitVec.getLsbD_shiftLeft, BitVec.getLsbD_one]
  by_cases h : i < 16 <;> by_cases hn : i = n
  · subst hn; simp [h]
  · by_cases hl : i < n
    · simp [h, hn, hl]
    · simp [h, hn, hl]; omega
  · simp [h]
  · simp [h]

theorem getLsbD_setBit (n i : Nat) (w : Word) :
    (setBit n w).getLsbD i = (w.getLsbD i || (decide (i < 16) && decide (i = n))) := by
  simp [setBit, getLsbD_bitMask]

theorem getLsbD_clearBit (n i : Nat) (w : Word) : (clearBit n w).getLsbD i = (w.getLsbD i && !decide (i = n)) := by
  by_cases h : i < 16
  · unfold clearBit
    rw [BitVec.getLsbD_and, BitVec.getLsbD_not, getLsbD_bitMask]
    simp [h]
  · have e : ∀ x : Word, x.getLsbD i = false := fun x => BitVec.getLsbD_of_ge x i (by omega)
    simp [e]

/-! ### Ticks and forced halts (spec/60_exceptions.md R186, R207) -/

/-- When a tick of timer `i` latches. -/
def tickLatches (i : Timer) : Prop :=
  s.running = true ∧ s.fault = none ∧ s.gie = true ∧ s.tie i = true ∧ s.pending = none

theorem tick_latches (i : Timer) (h : tickLatches s i) : s.tick i = s.setPending (some i) := by
  obtain ⟨h1, h2, h3, h4, h5⟩ := h
  simp [State.tick, h1, h2, h3, h4, h5]

theorem tick_lost (i : Timer) (h : ¬tickLatches s i) : s.tick i = s := by
  unfold State.tick
  split
  · rename_i hc
    simp only [Bool.and_eq_true, Option.isNone_iff_eq_none] at hc
    exact absurd ⟨hc.1.1.1.1, hc.1.1.1.2, hc.1.1.2, hc.1.2, hc.2⟩ h
  · rfl

/-- A tick latches its timer or does nothing. -/
theorem tick_cases (i : Timer) : s.tick i = s ∨ (tickLatches s i ∧ s.tick i = s.setPending (some i)) := by
  by_cases h : tickLatches s i
  · exact .inr ⟨h, tick_latches s i h⟩
  · exact .inl (tick_lost s i h)

/-- An outside event changes the pending pair and `running` only. -/
theorem event_eq (e : Event) : ∃ p r, s.event e = (s.setPending p).setRunning r ∧ (r = true → s.running = true) := by
  cases e with
  | tick i =>
    obtain h | ⟨-, h⟩ := tick_cases s i
    · exact ⟨s.pending, s.running, h, id⟩
    · exact ⟨some i, s.running, h, id⟩
  | forceHalt => exact ⟨s.pending, false, rfl, by simp⟩

/-- Outside events change the pending pair and `running` only, and start nothing. -/
theorem events_eq (es : List Event) :
    ∃ p r, s.events es = (s.setPending p).setRunning r ∧ (r = true → s.running = true) := by
  induction es generalizing s with
  | nil => exact ⟨s.pending, s.running, rfl, id⟩
  | cons e es ih =>
    obtain ⟨p, r, h, hr⟩ := event_eq s e
    obtain ⟨p', r', h', hr'⟩ := ih (s.event e)
    refine ⟨p', r', ?_, fun x => hr ?_⟩
    · show (s.event e).events es = _
      rw [h', h]; rfl
    · have := hr' x; rw [h] at this; exact this

@[simp] theorem events_nil : s.events [] = s := rfl
@[simp] theorem events_cons (e : Event) (es : List Event) : s.events (e :: es) = (s.event e).events es := rfl

/-- One field of the state that no outside event touches reads the same after any of them. -/
theorem events_field {α : Type} (f : State → α) (hp : ∀ t p, f (State.setPending p t) = f t)
    (hr : ∀ t r, f (State.setRunning r t) = f t) (es : List Event) : f (s.events es) = f s := by
  obtain ⟨p, r, h, -⟩ := events_eq s es
  rw [h, hr, hp]

@[simp] theorem events_cfg (es : List Event) : (s.events es).cfg = s.cfg := events_field s _ (fun _ _ => rfl) (fun _ _ => rfl) es
@[simp] theorem events_ip (es : List Event) : (s.events es).ip = s.ip := events_field s _ (fun _ _ => rfl) (fun _ _ => rfl) es
@[simp] theorem events_cr (es : List Event) : (s.events es).cr = s.cr := events_field s _ (fun _ _ => rfl) (fun _ _ => rfl) es
@[simp] theorem events_sp (es : List Event) : (s.events es).sp = s.sp := events_field s _ (fun _ _ => rfl) (fun _ _ => rfl) es
@[simp] theorem events_mem (es : List Event) : (s.events es).mem = s.mem := events_field s _ (fun _ _ => rfl) (fun _ _ => rfl) es
@[simp] theorem events_fault (es : List Event) : (s.events es).fault = s.fault := events_field s _ (fun _ _ => rfl) (fun _ _ => rfl) es
@[simp] theorem events_brkEvents (es : List Event) : (s.events es).brkEvents = s.brkEvents :=
  events_field s _ (fun _ _ => rfl) (fun _ _ => rfl) es
@[simp] theorem events_inputs (es : List Event) : (s.events es).inputs = s.inputs :=
  events_field s _ (fun _ _ => rfl) (fun _ _ => rfl) es
@[simp] theorem events_freeIndex (es : List Event) : (s.events es).freeIndex = s.freeIndex :=
  events_field s _ (fun _ _ => rfl) (fun _ _ => rfl) es
@[simp] theorem events_reg (es : List Event) (r : Reg) : (s.events es).reg r = s.reg r :=
  events_field s (fun t => t.reg r) (fun _ _ => by simp) (fun _ _ => by simp) es
@[simp] theorem events_memByte (es : List Event) (b : Bank) (a : Word) : (s.events es).memByte b a = s.memByte b a := by
  simp [State.memByte]
@[simp] theorem events_bank (es : List Event) : (s.events es).bank = s.bank := by simp [State.bank]
@[simp] theorem events_gie (es : List Event) : (s.events es).gie = s.gie := by simp [State.gie]
@[simp] theorem events_tie (es : List Event) (i : Timer) : (s.events es).tie i = s.tie i := by simp [State.tie]

/-! ### Interrupt entry and return (spec/60_exceptions.md R190, R191; spec/41_control_flow.md R129) -/

/-- The state after the first two actions of an interrupt entry: GIE cleared and IP pushed. -/
def entryPushed : State := (s.setCr (clearBit s.cfg.gieBit s.cr)).push s.ip

@[simp] theorem interruptEntry_cr (i : Timer) : (s.interruptEntry i).cr = clearBit s.cfg.gieBit s.cr := by simp [State.interruptEntry]
@[simp] theorem interruptEntry_sp (i : Timer) : (s.interruptEntry i).sp = s.sp + 2#16 := by simp [State.interruptEntry]
@[simp] theorem interruptEntry_pending (i : Timer) : (s.interruptEntry i).pending = none := by simp [State.interruptEntry]
@[simp] theorem interruptEntry_cfg (i : Timer) : (s.interruptEntry i).cfg = s.cfg := by simp [State.interruptEntry]
@[simp] theorem interruptEntry_running (i : Timer) : (s.interruptEntry i).running = s.running := by simp [State.interruptEntry]
@[simp] theorem interruptEntry_fault (i : Timer) : (s.interruptEntry i).fault = s.fault := by simp [State.interruptEntry]
@[simp] theorem interruptEntry_brkEvents (i : Timer) : (s.interruptEntry i).brkEvents = s.brkEvents := by simp [State.interruptEntry]
@[simp] theorem interruptEntry_inputs (i : Timer) : (s.interruptEntry i).inputs = s.inputs := by simp [State.interruptEntry]
@[simp] theorem interruptEntry_freeIndex (i : Timer) : (s.interruptEntry i).freeIndex = s.freeIndex := by simp [State.interruptEntry]
@[simp] theorem interruptEntry_reg (i : Timer) (r : Reg) : (s.interruptEntry i).reg r = s.reg r := by simp [State.interruptEntry]
@[simp] theorem interruptEntry_mem (i : Timer) : (s.interruptEntry i).mem = (entryPushed s).mem := by
  simp [State.interruptEntry, entryPushed]
@[simp] theorem interruptEntry_memByte (i : Timer) (b : Bank) (a : Word) :
    (s.interruptEntry i).memByte b a = (entryPushed s).memByte b a := by simp [State.memByte]

/-- The handler's address is read after the push (R190, steps 3 and 4). -/
theorem interruptEntry_ip (i : Timer) :
    (s.interruptEntry i).ip = (entryPushed s).memWord Config.mmioBank (vectorAddress s.cfg i) := by
  simp [State.interruptEntry, entryPushed]

theorem entryPushed_bank : (entryPushed s).bank = (s.setCr (clearBit s.cfg.gieBit s.cr)).bank := by
  simp [entryPushed]

theorem interruptEntry_wf (i : Timer) (h : s.mem.wf = true) : (s.interruptEntry i).mem.wf = true := by
  rw [interruptEntry_mem]
  exact push_wf (s.setCr (clearBit s.cfg.gieBit s.cr)) s.ip h

@[simp] theorem interruptReturn_ip : s.interruptReturn.ip = s.top := rfl
@[simp] theorem interruptReturn_sp : s.interruptReturn.sp = s.sp - 2#16 := rfl
@[simp] theorem interruptReturn_cr : s.interruptReturn.cr = setBit s.cfg.gieBit s.cr := rfl
@[simp] theorem interruptReturn_mem : s.interruptReturn.mem = s.mem := rfl
@[simp] theorem interruptReturn_reg (r : Reg) : s.interruptReturn.reg r = s.reg r := by cases r <;> rfl

/-- POLL enters the pending interrupt or does nothing (R189). -/
theorem poll_cases : (s.pending = none ∧ s.poll = s) ∨ ∃ i, s.pending = some i ∧ s.poll = s.interruptEntry i := by
  unfold State.poll
  cases h : s.pending with
  | none => exact .inl ⟨rfl, rfl⟩
  | some i => exact .inr ⟨i, rfl, rfl⟩

/-! ### The IllegalOpcode fault and the breakpoint event (spec/60_exceptions.md R181; spec/44_system.md R166) -/

@[simp] theorem raiseIllegalOpcode_fault (w : Word) : (s.raiseIllegalOpcode w).fault = some (s.illegalRecord w) := rfl
@[simp] theorem raiseIllegalOpcode_ip (w : Word) : (s.raiseIllegalOpcode w).ip = s.ip := rfl
@[simp] theorem raiseIllegalOpcode_cr (w : Word) : (s.raiseIllegalOpcode w).cr = s.cr := rfl
@[simp] theorem raiseIllegalOpcode_sp (w : Word) : (s.raiseIllegalOpcode w).sp = s.sp := rfl
@[simp] theorem raiseIllegalOpcode_mem (w : Word) : (s.raiseIllegalOpcode w).mem = s.mem := rfl
@[simp] theorem raiseIllegalOpcode_cfg (w : Word) : (s.raiseIllegalOpcode w).cfg = s.cfg := rfl
@[simp] theorem raiseIllegalOpcode_pending (w : Word) : (s.raiseIllegalOpcode w).pending = s.pending := rfl
@[simp] theorem raiseIllegalOpcode_brkEvents (w : Word) : (s.raiseIllegalOpcode w).brkEvents = s.brkEvents := rfl
@[simp] theorem raiseIllegalOpcode_inputs (w : Word) : (s.raiseIllegalOpcode w).inputs = s.inputs := rfl
@[simp] theorem raiseIllegalOpcode_reg (w : Word) (r : Reg) : (s.raiseIllegalOpcode w).reg r = s.reg r := by
  cases r <;> rfl

theorem emitBrk_without_hook (h : s.cfg.hookPresent = false) : s.emitBrk = s := by simp [State.emitBrk, h]

theorem emitBrk_with_hook (h : s.cfg.hookPresent = true) :
    s.emitBrk = { s with brkEvents := s.snapshot :: s.brkEvents } := by simp [State.emitBrk, h]

end Sys2Proof.Machine
end

