-- ==== Sys2Proof/Laws/Cycle.lean ====
section
/-! SUPPORT. What one step can do: the cases of a cycle, and its form when no outside event arrives. -/

namespace Sys2Proof.Machine

variable (s t : State)

/-- Fetch and decode: the step executes the decoded instruction or raises IllegalOpcode. -/
theorem execStep_eq : s.execStep =
    match decodeWord s.fetch with
    | .ok i => exec i s
    | .error _ => .next (s.raiseIllegalOpcode s.fetch) := by
  unfold State.execStep
  simp only [decodeBytes, joinBytes_hi_lo]
  cases decodeWord s.fetch <;> rfl

/-- A step that answers a next state: no fault was latched, and either the core is stopped and only the outside events
happened, or the core ran one cycle. -/
theorem step_next (h : step s = .next t) :
    s.fault = none ∧
      ((s.cycleTop.running = false ∧ t = s.cycleTop) ∨
        (s.cycleTop.running = true ∧ s.beforeFetch.execStep = .next t)) := by
  simp only [step, State.cycle] at h
  cases hf : s.fault with
  | some r => simp [hf] at h
  | none =>
    cases hr : s.cycleTop.running with
    | false => simp [hf, hr] at h; exact ⟨rfl, .inl ⟨rfl, h.symm⟩⟩
    | true => simp [hf, hr] at h; exact ⟨rfl, .inr ⟨rfl, h⟩⟩

/-- A core whose fault latch is set has no next state. -/
theorem step_of_fault (r : IllegalOpcodeRecord) (h : s.fault = some r) : step s = .fault (.illegalOpcode r) := by
  simp [step, State.cycle, h]

theorem step_of_stopped (hf : s.fault = none) (hr : s.cycleTop.running = false) : step s = .next s.cycleTop := by
  simp [step, State.cycle, hf, hr]

theorem step_of_running (hf : s.fault = none) (hr : s.cycleTop.running = true) :
    step s = s.beforeFetch.execStep := by simp [step, State.cycle, hf, hr]

/-- Without outside events and with nothing pending, the state a cycle fetches from differs in the input list only. -/
theorem beforeFetch_quiet (hp : s.pending = none) (hi : nextInputs s.inputs = { beforePoll := [], beforeExec := [] }) :
    s.beforeFetch = s.setInputs s.inputs.tail := by
  have h : s.cycleTop = s.setInputs s.inputs.tail := by simp [State.cycleTop, hi]
  simp only [State.beforeFetch, h, hi, events_nil]
  show (s.setInputs s.inputs.tail).poll = _
  simp [State.poll, hp]

/-- A run of one more step goes through the next state. -/
theorem run_succ (M : Host.Core) (k : Nat) (a b : M.State) (h : M.step a = .next b) : M.run (k + 1) a = M.run k b := by
  simp only [Host.Core.run, h]

theorem core_run_succ (k : Nat) (h : step s = .next t) :
    Host.Core.run Sys2Proof.core (k + 1) s = Host.Core.run Sys2Proof.core k t :=
  run_succ Sys2Proof.core k s t h

/-- The fault latch, CR and IP are as before at the top of the cycle. -/
@[simp] theorem cycleTop_fault : s.cycleTop.fault = s.fault := by simp [State.cycleTop]
@[simp] theorem cycleTop_cr : s.cycleTop.cr = s.cr := by simp [State.cycleTop]
@[simp] theorem cycleTop_ip : s.cycleTop.ip = s.ip := by simp [State.cycleTop]
@[simp] theorem cycleTop_sp : s.cycleTop.sp = s.sp := by simp [State.cycleTop]
@[simp] theorem cycleTop_cfg : s.cycleTop.cfg = s.cfg := by simp [State.cycleTop]
@[simp] theorem cycleTop_mem : s.cycleTop.mem = s.mem := by simp [State.cycleTop]
@[simp] theorem cycleTop_inputs : s.cycleTop.inputs = s.inputs.tail := by simp [State.cycleTop]
@[simp] theorem cycleTop_reg (r : Reg) : s.cycleTop.reg r = s.reg r := by simp [State.cycleTop]

end Sys2Proof.Machine
end

