-- ==== Sys2Proof/Laws/Decode.lean ====
section
/-! SUPPORT. Each operand field reads back from the operand byte of its format, and each format's byte is rebuilt from the
fields read (spec/30_encoding.md R82 to R88). -/

namespace Sys2Proof

open Sys2Proof.Machine

/-! ### Selectors -/

@[simp] theorem Reg.ofBits_bits (r : Reg) : Reg.ofBits r.bits = r := by cases r <;> rfl
@[simp] theorem Timer.ofBits_bits (a : Timer) : Timer.ofBits a.bits = a := by cases a <;> rfl

theorem Reg.bits_ofBits : ∀ b : BitVec 2, (Reg.ofBits b).bits = b := by decide
theorem Timer.bits_ofBits : ∀ b : BitVec 1, (Timer.ofBits b).bits = b := by decide

/-! ### A field read from the byte it was put in -/

@[simp] theorem regAt4_operandR3 (cc aa bb : Reg) : regAt4 (operandR3 cc aa bb) = cc := by
  cases cc <;> cases aa <;> cases bb <;> rfl
@[simp] theorem regAt2_operandR3 (cc aa bb : Reg) : regAt2 (operandR3 cc aa bb) = aa := by
  cases cc <;> cases aa <;> cases bb <;> rfl
@[simp] theorem regAt0_operandR3 (cc aa bb : Reg) : regAt0 (operandR3 cc aa bb) = bb := by
  cases cc <;> cases aa <;> cases bb <;> rfl
@[simp] theorem regAt2_operandR2 (aa bb : Reg) : regAt2 (operandR2 aa bb) = aa := by cases aa <;> cases bb <;> rfl
@[simp] theorem regAt0_operandR2 (aa bb : Reg) : regAt0 (operandR2 aa bb) = bb := by cases aa <;> cases bb <;> rfl
@[simp] theorem regAt0_operandR1 (aa : Reg) : regAt0 (operandR1 aa.bits) = aa := by cases aa <;> rfl
@[simp] theorem timerAt0_operandT (a : Timer) : timerAt0 (operandT a) = a := by cases a <;> rfl

theorem numberAt_operandR1 : ∀ n, n < 4 → numberAt 0 2 (operandR1 (BitVec.ofNat 2 n)) = n := by decide

theorem fields_operandS (aa : Reg) : ∀ yy, yy < 4 → ∀ xxxx, xxxx < 16 →
    regAt6 (operandS aa yy xxxx) = aa ∧ numberAt 4 2 (operandS aa yy xxxx) = yy ∧
      numberAt 0 4 (operandS aa yy xxxx) = xxxx := by
  cases aa <;> decide

theorem fields_operandO (aa : Reg) : ∀ xx, xx < 64 →
    regAt6 (operandO aa xx) = aa ∧ numberAt 0 6 (operandO aa xx) = xx := by
  cases aa <;> decide

/-! ### A byte rebuilt from its fields -/

theorem operandR3_fields : ∀ b : Byte, operandR3 (regAt4 b) (regAt2 b) (regAt0 b) = b &&& 0x3F#8 := by decide
theorem operandR2_fields : ∀ b : Byte, operandR2 (regAt2 b) (regAt0 b) = b &&& 0x0F#8 := by decide
theorem operandR1_fields : ∀ b : Byte, operandR1 (regAt0 b).bits = b &&& 0x03#8 := by decide
theorem operandT_fields : ∀ b : Byte, operandT (timerAt0 b) = b &&& 0x01#8 := by decide
theorem operandS_fields : ∀ b : Byte, operandS (regAt6 b) (numberAt 4 2 b) (numberAt 0 4 b) = b := by decide
theorem operandO_fields : ∀ b : Byte, operandO (regAt6 b) (numberAt 0 6 b) = b := by decide
theorem operandR1_number : ∀ b : Byte, operandR1 (BitVec.ofNat 2 (numberAt 0 2 b)) = b &&& 0x03#8 := by decide

theorem numberAt_lt (lo n : Nat) (b : Byte) : numberAt lo n b < 2 ^ n := (b.extractLsb' lo n).isLt

end Sys2Proof
end

