-- ==== Sys2Proof/Laws/Frames.lean ====
section
/-! SUPPORT. The effect and the frame of each shared shape of effect, in the terms of Safety. -/

namespace Sys2Proof.Machine

variable (s : State)

theorem sameRun_refl : SameRun s s := ⟨rfl, rfl, rfl, rfl⟩

theorem sameLatches_refl : SameLatches s s := ⟨sameRun_refl s, rfl, rfl, rfl⟩

/-- Writing a register and advancing does just that. -/
theorem writeAdvance_writesRegister (r : Reg) (v : Word) : WritesRegister r v s (s.writeAdvance r v) := by
  refine ⟨?_, fun x hx => ?_, ?_, ?_, ?_, fun b a => ?_, ⟨?_, ?_, ?_, ?_⟩, ?_, ?_, ?_⟩ <;>
    simp [State.writeAdvance, *]

/-- ADVANCE only moves IP. -/
theorem advance_movesIp : MovesIp (s.ip + 2#16) s s.advance :=
  ⟨rfl, fun r => by simp, rfl, rfl, fun _ _ => rfl, sameLatches_refl s⟩

/-- A jump only moves IP. -/
theorem jump_movesIp (v : Word) : MovesIp v s (s.jump v) :=
  ⟨rfl, fun r => by simp, rfl, rfl, fun _ _ => rfl, sameLatches_refl s⟩

/-- A branch only moves IP, to its target or past itself. -/
theorem branchIf_movesIp (c : Bool) (v : Word) : MovesIp (if c then v else s.ip + 2#16) s (s.branchIf c v) := by
  cases c
  · exact advance_movesIp s
  · exact jump_movesIp s v

/-- Writing CR and advancing does just that. -/
theorem setCr_advance_writesCr (v : Word) : WritesCr v s (s.setCr v).advance :=
  ⟨rfl, rfl, fun r => by simp, rfl, fun _ _ => rfl, sameLatches_refl s⟩

/-- A word store stores the word and no other byte. -/
theorem setMemWord_stored (b : Bank) (a v : Word) : WordStored b a v s (s.setMemWord b a v) :=
  ⟨setMemWord_memByte_hi s b a v, setMemWord_memByte_lo s b a v,
    fun b' a' h => setMemWord_memByte_other s b b' a a' v h⟩

/-- A push stores the word at the new SP and no other byte. -/
theorem push_stored (v : Word) : WordStored s.bank (s.sp + 2#16) v s (s.push v) :=
  ⟨push_memByte_hi s v, push_memByte_lo s v, fun b a h => push_memByte_other s v b a h⟩

/-- The bank field does not contain bit 3, where the literals of R10 put GIE. -/
theorem bank_clearGie (h : s.cfg.literals) : (s.setCr (clearBit s.cfg.gieBit s.cr)).bank = s.bank := by
  simp only [State.bank, setCr_cr, setCr_cfg, h.1]
  apply BitVec.eq_of_getLsbD_eq
  intro i hi
  rw [BitVec.getLsbD_extractLsb', BitVec.getLsbD_extractLsb', getLsbD_clearBit]
  have h3 : s.cfg.bankPlacement.lsb + i ≠ 3 := by cases s.cfg.bankPlacement <;> simp only [BankPlacement.lsb] <;> omega
  simp [h3]

end Sys2Proof.Machine
end

