-- ==== Sys2Proof/Laws/Outside.lean ====
section
/-! SUPPORT. Outside events and the list that holds them: what events do to the pending pair and to a stopped core, and
that nothing the core does looks at the list. -/

namespace Sys2Proof.Machine

variable (s : State)

/-- Events leave a latched interrupt as it is (spec/60_exceptions.md R186). -/
theorem events_pending_of_latched (es : List Event) (h : s.pending ≠ none) : (s.events es).pending = s.pending := by
  induction es generalizing s with
  | nil => rfl
  | cons e es ih =>
    rw [events_cons]
    cases e with
    | tick i => rw [show s.event (.tick i) = s from tick_lost s i (by rintro ⟨-, -, -, -, e⟩; exact h e)]; exact ih s h
    | forceHalt => exact ih _ h

/-- Events change nothing of a stopped core (spec/60_exceptions.md R186, R207). -/
theorem events_of_stopped (es : List Event) (h : s.running = false) : s.events es = s := by
  induction es with
  | nil => rfl
  | cons e es ih =>
    rw [events_cons]
    have : s.event e = s := by
      cases e with
      | tick i => exact tick_lost s i (by rintro ⟨a, -⟩; simp [h] at a)
      | forceHalt => simp [State.event, State.forceHalt, State.setRunning, ← h]
    rw [this]; exact ih

theorem poll_cfg : s.poll.cfg = s.cfg := by
  rcases poll_cases s with ⟨-, h⟩ | ⟨i, -, h⟩ <;> rw [h]; simp

/-! ### The list of outside events -/

variable (x : List CycleInputs)

theorem event_setInputs (e : Event) : (s.setInputs x).event e = (s.event e).setInputs x := by
  cases e with
  | tick i =>
    simp only [State.event, State.tick]
    show (if (s.running && s.fault.isNone && s.gie && s.tie i && s.pending.isNone) = true then _ else _) = _
    split <;> rfl
  | forceHalt => rfl

theorem events_setInputs (es : List Event) : (s.setInputs x).events es = (s.events es).setInputs x := by
  induction es generalizing s with
  | nil => rfl
  | cons e es ih => rw [events_cons, events_cons, event_setInputs, ih]

theorem poll_setInputs : (s.setInputs x).poll = s.poll.setInputs x := by
  simp only [State.poll, setInputs_pending]
  cases s.pending <;> rfl

/-- A result with the list of outside events replaced. -/
def resultSetInputs (x : List CycleInputs) : Result → Result
  | .next t => .next (t.setInputs x)
  | .fault r => .fault r
  | .refused r => .refused r

/-- No instruction looks at the list. -/
theorem exec_setInputs (i : Instr) : exec i (s.setInputs x) = resultSetInputs x (exec i s) := by
  have wa (s : State) (r v) : (s.setInputs x).writeAdvance r v = (s.writeAdvance r v).setInputs x := by cases r <;> rfl
  cases i <;> simp only [exec, execNop, execAdd, execSub, execAnd, execOr, execXor, execInc, execDec, execSet, execClr,
    execNot, execLd, execCpy, execSt, execSpxl, execPush, execCall, execPop, execPeek, execCsp, execJmp, execBre, execBrne,
    execBrl, execBrh, execRet, execReti, execBrnz, execDai, execEai, execDti, execEti, execSelb, execBrk, execHlt,
    resultSetInputs, branchIf_eq, setInputs_reg, setInputs_ip, setInputs_memWord, setInputs_bank]
  case brk => cases h : s.cfg.hookPresent <;> simp only [State.emitBrk, setInputs_cfg, h, if_true] <;> rfl
  case pop => exact congrArg Host.Outcome.next (wa s.drop _ _)
  all_goals first | exact congrArg Host.Outcome.next (wa _ _ _) | rfl

theorem execStep_setInputs : (s.setInputs x).execStep = resultSetInputs x s.execStep := by
  rw [execStep_eq, execStep_eq]
  show (match decodeWord s.fetch with
    | .ok i => exec i (s.setInputs x)
    | .error _ => .next ((s.setInputs x).raiseIllegalOpcode s.fetch)) = _
  cases decodeWord s.fetch with
  | ok i => exact exec_setInputs s x i
  | error r => rfl

theorem setInputs_nil_self (h : s.inputs = []) : s.setInputs [] = s := by cases s; simp_all [State.setInputs]

/-- A run of one more step at the end. -/
theorem run_snoc (M : Host.Core) (k : Nat) (a b c : M.State) (h : M.run k a = .next b) (h2 : M.step b = .next c) :
    M.run (k + 1) a = .next c := by
  induction k generalizing a with
  | zero => cases h; simp only [Host.Core.run, h2]
  | succ k ih =>
    rw [Host.Core.run] at h ⊢
    cases hs : M.step a with
    | next a' => rw [hs] at h; exact ih a' h
    | fault r => rw [hs] at h; cases h
    | refused r => rw [hs] at h; cases h

end Sys2Proof.Machine
end

