-- ==== Sys2Proof/Laws/PerInstr.lean ====
section
/-! SUPPORT. Per instruction: its word carries its opcode byte and its operand byte (spec/30_encoding.md R80). -/

open Sys2Proof.Machine

namespace Sys2Proof.Laws

/-- The high byte of the instruction's word is its opcode and the low byte its operand byte. -/
def EncodeOpcode.Statement (i : Instr) : Prop := hiByte (encodeWord i) = i.opcode ∧ loByte (encodeWord i) = i.operand

theorem EncodeOpcode.nop : EncodeOpcode.Statement .nop := ⟨hiByte_joinBytes _ _, loByte_joinBytes _ _⟩
theorem EncodeOpcode.add (cc : Reg) (aa : Reg) (bb : Reg) : EncodeOpcode.Statement (.add cc aa bb) := ⟨hiByte_joinBytes _ _, loByte_joinBytes _ _⟩
theorem EncodeOpcode.sub (cc : Reg) (aa : Reg) (bb : Reg) : EncodeOpcode.Statement (.sub cc aa bb) := ⟨hiByte_joinBytes _ _, loByte_joinBytes _ _⟩
theorem EncodeOpcode.and (cc : Reg) (aa : Reg) (bb : Reg) : EncodeOpcode.Statement (.and cc aa bb) := ⟨hiByte_joinBytes _ _, loByte_joinBytes _ _⟩
theorem EncodeOpcode.or (cc : Reg) (aa : Reg) (bb : Reg) : EncodeOpcode.Statement (.or cc aa bb) := ⟨hiByte_joinBytes _ _, loByte_joinBytes _ _⟩
theorem EncodeOpcode.xor (cc : Reg) (aa : Reg) (bb : Reg) : EncodeOpcode.Statement (.xor cc aa bb) := ⟨hiByte_joinBytes _ _, loByte_joinBytes _ _⟩
theorem EncodeOpcode.inc (aa : Reg) : EncodeOpcode.Statement (.inc aa) := ⟨hiByte_joinBytes _ _, loByte_joinBytes _ _⟩
theorem EncodeOpcode.dec (aa : Reg) : EncodeOpcode.Statement (.dec aa) := ⟨hiByte_joinBytes _ _, loByte_joinBytes _ _⟩
theorem EncodeOpcode.set (aa : Reg) (yy : Nat) (xxxx : Nat) : EncodeOpcode.Statement (.set aa yy xxxx) := ⟨hiByte_joinBytes _ _, loByte_joinBytes _ _⟩
theorem EncodeOpcode.clr (aa : Reg) : EncodeOpcode.Statement (.clr aa) := ⟨hiByte_joinBytes _ _, loByte_joinBytes _ _⟩
theorem EncodeOpcode.not (aa : Reg) : EncodeOpcode.Statement (.not aa) := ⟨hiByte_joinBytes _ _, loByte_joinBytes _ _⟩
theorem EncodeOpcode.ld (aa : Reg) (bb : Reg) : EncodeOpcode.Statement (.ld aa bb) := ⟨hiByte_joinBytes _ _, loByte_joinBytes _ _⟩
theorem EncodeOpcode.st (aa : Reg) (bb : Reg) : EncodeOpcode.Statement (.st aa bb) := ⟨hiByte_joinBytes _ _, loByte_joinBytes _ _⟩
theorem EncodeOpcode.cpy (aa : Reg) (bb : Reg) : EncodeOpcode.Statement (.cpy aa bb) := ⟨hiByte_joinBytes _ _, loByte_joinBytes _ _⟩
theorem EncodeOpcode.push (aa : Reg) : EncodeOpcode.Statement (.push aa) := ⟨hiByte_joinBytes _ _, loByte_joinBytes _ _⟩
theorem EncodeOpcode.pop (aa : Reg) : EncodeOpcode.Statement (.pop aa) := ⟨hiByte_joinBytes _ _, loByte_joinBytes _ _⟩
theorem EncodeOpcode.peek (aa : Reg) (xx : Nat) : EncodeOpcode.Statement (.peek aa xx) := ⟨hiByte_joinBytes _ _, loByte_joinBytes _ _⟩
theorem EncodeOpcode.csp (aa : Reg) (xx : Nat) : EncodeOpcode.Statement (.csp aa xx) := ⟨hiByte_joinBytes _ _, loByte_joinBytes _ _⟩
theorem EncodeOpcode.spxl (aa : Reg) (bb : Reg) : EncodeOpcode.Statement (.spxl aa bb) := ⟨hiByte_joinBytes _ _, loByte_joinBytes _ _⟩
theorem EncodeOpcode.jmp (aa : Reg) : EncodeOpcode.Statement (.jmp aa) := ⟨hiByte_joinBytes _ _, loByte_joinBytes _ _⟩
theorem EncodeOpcode.bre (cc : Reg) (aa : Reg) (bb : Reg) : EncodeOpcode.Statement (.bre cc aa bb) := ⟨hiByte_joinBytes _ _, loByte_joinBytes _ _⟩
theorem EncodeOpcode.brne (cc : Reg) (aa : Reg) (bb : Reg) : EncodeOpcode.Statement (.brne cc aa bb) := ⟨hiByte_joinBytes _ _, loByte_joinBytes _ _⟩
theorem EncodeOpcode.brl (cc : Reg) (aa : Reg) (bb : Reg) : EncodeOpcode.Statement (.brl cc aa bb) := ⟨hiByte_joinBytes _ _, loByte_joinBytes _ _⟩
theorem EncodeOpcode.brh (cc : Reg) (aa : Reg) (bb : Reg) : EncodeOpcode.Statement (.brh cc aa bb) := ⟨hiByte_joinBytes _ _, loByte_joinBytes _ _⟩
theorem EncodeOpcode.call (aa : Reg) : EncodeOpcode.Statement (.call aa) := ⟨hiByte_joinBytes _ _, loByte_joinBytes _ _⟩
theorem EncodeOpcode.ret : EncodeOpcode.Statement .ret := ⟨hiByte_joinBytes _ _, loByte_joinBytes _ _⟩
theorem EncodeOpcode.reti : EncodeOpcode.Statement .reti := ⟨hiByte_joinBytes _ _, loByte_joinBytes _ _⟩
theorem EncodeOpcode.brnz (aa : Reg) (cc : Reg) : EncodeOpcode.Statement (.brnz aa cc) := ⟨hiByte_joinBytes _ _, loByte_joinBytes _ _⟩
theorem EncodeOpcode.dai : EncodeOpcode.Statement .dai := ⟨hiByte_joinBytes _ _, loByte_joinBytes _ _⟩
theorem EncodeOpcode.eai : EncodeOpcode.Statement .eai := ⟨hiByte_joinBytes _ _, loByte_joinBytes _ _⟩
theorem EncodeOpcode.dti (a : Timer) : EncodeOpcode.Statement (.dti a) := ⟨hiByte_joinBytes _ _, loByte_joinBytes _ _⟩
theorem EncodeOpcode.eti (a : Timer) : EncodeOpcode.Statement (.eti a) := ⟨hiByte_joinBytes _ _, loByte_joinBytes _ _⟩
theorem EncodeOpcode.selb (aa : Nat) : EncodeOpcode.Statement (.selb aa) := ⟨hiByte_joinBytes _ _, loByte_joinBytes _ _⟩
theorem EncodeOpcode.brk : EncodeOpcode.Statement .brk := ⟨hiByte_joinBytes _ _, loByte_joinBytes _ _⟩
theorem EncodeOpcode.hlt : EncodeOpcode.Statement .hlt := ⟨hiByte_joinBytes _ _, loByte_joinBytes _ _⟩

end Sys2Proof.Laws
end

