-- ==== Sys2Proof/Laws/Values.lean ====
section
/-! SUPPORT. What the address and bit-field helpers compute, in the terms of Nat and of single bits. -/

namespace Sys2Proof.Machine

open Sys2Proof

/-- The offset of a word's second byte (spec/20_memory.md R56). -/
theorem ofNat_succ (a : Word) : BitVec.ofNat 16 ((a.toNat + 1) % 65536) = a + 1#16 := by
  apply BitVec.eq_of_toNat_eq; simp [BitVec.toNat_add]

/-- The offset one word further (spec/10_state.md R26, R36). -/
theorem ofNat_add_two (a : Word) : BitVec.ofNat 16 ((a.toNat + 2) % 65536) = a + 2#16 := by
  apply BitVec.eq_of_toNat_eq; simp [BitVec.toNat_add]

/-- Moving by one word keeps the parity of an offset. -/
theorem add_two_parity (w : Word) : (w + 2#16).getLsbD 0 = w.getLsbD 0 := by
  have e (x : Word) : x.getLsbD 0 = decide (x.toNat % 2 = 1) := by rw [BitVec.getLsbD]; simp [Nat.testBit_zero]
  rw [e, e]; simp [BitVec.toNat_add]

theorem sub_two_parity (w : Word) : (w - 2#16).getLsbD 0 = w.getLsbD 0 := by
  rw [← add_two_parity (w - 2#16)]; congr 1; bv_omega

/-- Every bit after SET's nibble placement. -/
theorem getLsbD_setNibble (yy xxxx : Nat) (hy : yy < 4) (hx : xxxx < 16) (w : Word) (n : Nat) (hn : n < 16) :
    (setNibble yy xxxx w).getLsbD n = if n / 4 = yy then xxxx.testBit (n % 4) else w.getLsbD n := by
  have hf : ∀ y < 4, ∀ n < 16, (0xF#16 <<< (4 * y)).getLsbD n = decide (n / 4 = y) := by decide
  have hg : ∀ x < 16, ∀ y < 4, ∀ n < 16,
      (BitVec.ofNat 16 x <<< (4 * y)).getLsbD n = (decide (n / 4 = y) && x.testBit (n % 4)) := by decide +kernel
  unfold setNibble
  rw [BitVec.getLsbD_or, BitVec.getLsbD_and, BitVec.getLsbD_not, hf yy hy n hn, hg xxxx hx yy hy n hn]
  by_cases h : n / 4 = yy <;> simp [h, hn]

/-- The byte of a pixel is at half its index. -/
theorem pixelAddress_eq (p : Word) : pixelAddress p = BitVec.ofNat 16 (p.toNat / 2) := by
  apply BitVec.eq_of_toNat_eq
  have := p.isLt
  simp [pixelAddress, Nat.shiftRight_eq_div_pow]; omega

/-- The side of a pixel is the parity of its index, turned by `SPXL_EVEN_HIGH`. -/
theorem pixelIsHigh_eq (c : Config) (p : Word) : pixelIsHigh c p = (decide (p.toNat % 2 = 0) == c.spxlEvenHigh) := by
  have : p.getLsbD 0 = decide (p.toNat % 2 = 1) := by rw [BitVec.getLsbD]; simp [Nat.testBit_zero]
  unfold pixelIsHigh
  rw [this]
  rcases Nat.mod_two_eq_zero_or_one p.toNat with h | h <;> cases c.spxlEvenHigh <;> simp [h]

end Sys2Proof.Machine
end

