-- ==== Sys2Proof/Tests/Slice0.lean ====
section
/-! SUPPORT. The model's own tests. Expected results are those of spec/95_test_vectors.md (named V-…, X…) and of the
examples of the instruction rules; words are written out from the patterns of spec/30_encoding.md R90. The last part
shows, for every statement with hypotheses, a concrete state and operands that meet them all. -/

namespace Sys2Proof.Tests

open Sys2Proof.Machine

/-! ### WellFormed refuses each ill-formed number (R93, R97) -/

theorem test_set_nibble_index_out_of_range : (Instr.set .w0 4 0).wellFormed = false := by decide
theorem test_set_immediate_out_of_range : (Instr.set .w0 0 16).wellFormed = false := by decide
theorem test_peek_offset_out_of_range : (Instr.peek .w0 64).wellFormed = false := by decide
theorem test_csp_offset_out_of_range : (Instr.csp .w0 64).wellFormed = false := by decide
theorem test_selb_bank_out_of_range : (Instr.selb 4).wellFormed = false := by decide
theorem test_largest_numbers_are_well_formed :
    (Instr.set .w0 3 15).wellFormed = true ∧ (Instr.peek .w0 63).wellFormed = true ∧ (Instr.selb 3).wellFormed = true := by
  decide

/-! ### Decoding, one word per constructor -/

theorem test_decode_alu :
    decodeTableWord 16 0b0000000011111111 = some .nop ∧
    decodeTableWord 16 0b0000000100110001 = some (.add .w3 .w0 .w1) ∧
    decodeTableWord 16 0b0000001000100001 = some (.sub .w2 .w0 .w1) ∧
    decodeTableWord 16 0b0000001100100001 = some (.and .w2 .w0 .w1) ∧
    decodeTableWord 16 0b0000010000100001 = some (.or .w2 .w0 .w1) ∧
    decodeTableWord 16 0b0000010100100001 = some (.xor .w2 .w0 .w1) ∧
    decodeTableWord 16 0b0000011000000010 = some (.inc .w2) ∧
    decodeTableWord 16 0b0000011100000011 = some (.dec .w3) ∧
    decodeTableWord 16 0b0000100011111010 = some (.set .w3 3 10) ∧
    decodeTableWord 16 0b0000101000000010 = some (.clr .w2) ∧
    decodeTableWord 16 0b0000101100000001 = some (.not .w1) := by decide

theorem test_decode_data_and_stack :
    decodeTableWord 16 0b0100000100000010 = some (.ld .w0 .w2) ∧
    decodeTableWord 16 0b0100001000000001 = some (.st .w0 .w1) ∧
    decodeTableWord 16 0b0100001100001100 = some (.cpy .w3 .w0) ∧
    decodeTableWord 16 0b0100100000000001 = some (.push .w1) ∧
    decodeTableWord 16 0b0100100100000001 = some (.pop .w1) ∧
    decodeTableWord 16 0b0100101001111111 = some (.peek .w1 63) ∧
    decodeTableWord 16 0b0100101111000100 = some (.csp .w3 4) ∧
    decodeTableWord 16 0b0100110000000001 = some (.spxl .w0 .w1) := by decide

theorem test_decode_control_flow :
    decodeTableWord 16 0b1000000000000010 = some (.jmp .w2) ∧
    decodeTableWord 16 0b1000001000100100 = some (.bre .w2 .w1 .w0) ∧
    decodeTableWord 16 0b1000001100100001 = some (.brne .w2 .w0 .w1) ∧
    decodeTableWord 16 0b1000010000100001 = some (.brl .w2 .w0 .w1) ∧
    decodeTableWord 16 0b1000010100100001 = some (.brh .w2 .w0 .w1) ∧
    decodeTableWord 16 0b1000011000000011 = some (.call .w3) ∧
    decodeTableWord 16 0b1000011100000000 = some .ret ∧
    decodeTableWord 16 0b1000100000000000 = some .reti ∧
    decodeTableWord 16 0b1000100100000010 = some (.brnz .w0 .w2) := by decide

theorem test_decode_system :
    decodeTableWord 16 0b1100000000000000 = some .dai ∧
    decodeTableWord 16 0b1100000100000000 = some .eai ∧
    decodeTableWord 16 0b1100001000000001 = some (.dti .timer1) ∧
    decodeTableWord 16 0b1100001111111110 = some (.eti .timer0) ∧
    decodeTableWord 16 0b1100010000000011 = some (.selb 3) ∧
    decodeTableWord 16 0b1111111000000000 = some .brk ∧
    decodeTableWord 16 0b1111111100000000 = some .hlt := by decide

/-- V-Y16 to V-Y21. -/
theorem test_decode_refuses_illegal_opcodes :
    decodeTableWord 16 0x0900 = none ∧ decodeTableWord 16 0x8100 = none ∧ decodeTableWord 16 0x4000 = none ∧
    decodeTableWord 16 0xFD00 = none ∧ decodeTableWord 16 0x0C00 = none ∧ decodeTableWord 16 0x09FF = none := by decide

/-! ### One step on a small state -/

/-- The default start of spec/95_test_vectors.md: IP = 0010 and the word there, else as after reset. -/
def start (w : Word) : State := { State.reset.setMemWord 0#2 0x0010#16 w with ip := 0x0010#16 }

/-- The step answers a next state with the property. -/
def after (s : State) (p : State → Bool) : Bool :=
  match step s with
  | .next t => p t
  | _ => false

/-- V-A2. -/
theorem test_nop : after (start 0x00FF#16) (fun t => t == { start 0x00FF#16 with ip := 0x0012#16 }) = true := by decide
/-- V-A4: the sum wraps. -/
theorem test_add_wraps : after { start 0x0121#16 with w0 := 0xFFFF#16, w1 := 1#16, w2 := 0x5555#16 }
    (fun t => t.w2 == 0#16 && t.w0 == 0xFFFF#16 && t.ip == 0x0012#16) = true := by decide
/-- V-A5: all three selectors the same register. -/
theorem test_add_same_register : after { start 0x0100#16 with w0 := 0x8000#16 } (fun t => t.w0 == 0#16) = true := by decide
/-- V-A7: the borrow wraps, `aa` is the minuend. -/
theorem test_sub_wraps : after { start 0x0221#16 with w1 := 1#16 } (fun t => t.w2 == 0xFFFF#16) = true := by decide
/-- V-A9. -/
theorem test_and : after { start 0x0321#16 with w0 := 0xF0F0#16, w1 := 0x3C3C#16 } (fun t => t.w2 == 0x3030#16) = true := by
  decide
/-- V-A10. -/
theorem test_or : after { start 0x0421#16 with w0 := 0xF0F0#16, w1 := 0x3C3C#16 } (fun t => t.w2 == 0xFCFC#16) = true := by
  decide
/-- V-A11. -/
theorem test_xor : after { start 0x0521#16 with w0 := 0xF0F0#16, w1 := 0x3C3C#16 } (fun t => t.w2 == 0xCCCC#16) = true := by
  decide
/-- V-A13. -/
theorem test_inc_wraps : after { start 0x0602#16 with w2 := 0xFFFF#16 } (fun t => t.w2 == 0#16) = true := by decide
/-- V-A15. -/
theorem test_dec_wraps : after (start 0x0703#16) (fun t => t.w3 == 0xFFFF#16) = true := by decide
/-- V-A18: the nibble is cleared, the others kept. -/
theorem test_set_clears_nibble : after { start 0x0860#16 with w1 := 0xFFFF#16 } (fun t => t.w1 == 0xF0FF#16) = true := by
  decide
/-- V-A19. -/
theorem test_set_top_nibble : after { start 0x08FA#16 with w3 := 0x1234#16 } (fun t => t.w3 == 0xA234#16) = true := by decide
/-- V-A20. -/
theorem test_clr : after { start 0x0A02#16 with w2 := 0xBEEF#16 } (fun t => t.w2 == 0#16) = true := by decide
/-- V-A21. -/
theorem test_not : after { start 0x0B01#16 with w1 := 0x1234#16 } (fun t => t.w1 == 0xEDCB#16) = true := by decide

/-- V-C3: an odd target. -/
theorem test_jmp : after { start 0x8001#16 with w1 := 0x0041#16 } (fun t => t.ip == 0x0041#16) = true := by decide
/-- V-C4. -/
theorem test_bre_taken : after { start 0x8221#16 with w0 := 5#16, w1 := 5#16, w2 := 0x0100#16 }
    (fun t => t.ip == 0x0100#16) = true := by decide
/-- V-C5. -/
theorem test_bre_not_taken : after { start 0x8221#16 with w0 := 5#16, w1 := 6#16, w2 := 0x0100#16 }
    (fun t => t.ip == 0x0012#16) = true := by decide
/-- V-C6. -/
theorem test_brne_taken : after { start 0x8321#16 with w0 := 5#16, w1 := 6#16, w2 := 0x0100#16 }
    (fun t => t.ip == 0x0100#16) = true := by decide
/-- V-C7. -/
theorem test_brne_not_taken : after { start 0x8321#16 with w0 := 5#16, w1 := 5#16, w2 := 0x0100#16 }
    (fun t => t.ip == 0x0012#16) = true := by decide
/-- V-C8: 1 is lower than FFFF. -/
theorem test_brl_unsigned : after { start 0x8421#16 with w0 := 1#16, w1 := 0xFFFF#16, w2 := 0x0100#16 }
    (fun t => t.ip == 0x0100#16) = true := by decide
/-- V-C9: equal is not lower. -/
theorem test_brl_equal : after { start 0x8421#16 with w0 := 5#16, w1 := 5#16, w2 := 0x0100#16 }
    (fun t => t.ip == 0x0012#16) = true := by decide
/-- V-C11: 8000 is higher than 7FFF. -/
theorem test_brh_unsigned : after { start 0x8521#16 with w0 := 0x8000#16, w1 := 0x7FFF#16, w2 := 0x0100#16 }
    (fun t => t.ip == 0x0100#16) = true := by decide
/-- V-C13. -/
theorem test_brh_not_taken : after { start 0x8521#16 with w0 := 0x7FFF#16, w1 := 0x8000#16, w2 := 0x0100#16 }
    (fun t => t.ip == 0x0012#16) = true := by decide
/-- V-C15: the return address wraps. -/
theorem test_call_wraps : after { State.reset.setMemWord 0#2 0xFFFE#16 0x8603#16 with ip := 0xFFFE#16, w3 := 0x0014#16 }
    (fun t => t.ip == 0x0014#16 && t.sp == 0x8002#16 && t.memWord 2#2 0x8002#16 == 0#16) = true := by decide
/-- V-C14: the return address is IP + 2, stored big-endian. -/
theorem test_call : after { State.reset.setMemWord 0#2 0x000C#16 0x8603#16 with ip := 0x000C#16, w3 := 0x0014#16, sp := 0x8002#16 }
    (fun t => t.ip == 0x0014#16 && t.sp == 0x8004#16 && t.memByte 2#2 0x8004#16 == 0#8 && t.memByte 2#2 0x8005#16 == 0x0E#8) =
      true := by decide
/-- V-C16. -/
theorem test_ret : after { (start 0x8700#16).setMemWord 2#2 0x8004#16 0x000E#16 with sp := 0x8004#16 }
    (fun t => t.ip == 0x000E#16 && t.sp == 0x8002#16 && t.cr == 0x9000#16) = true := by decide
/-- V-C17: bank 1 selected, GIE set. -/
theorem test_reti : after { (start 0x8800#16).setMemWord 1#2 0x8002#16 0x0024#16 with sp := 0x8002#16, cr := 0x5100#16 }
    (fun t => t.ip == 0x0024#16 && t.sp == 0x8000#16 && t.cr == 0x5108#16) = true := by decide
/-- V-C21: the tested register is also the target. -/
theorem test_brnz_same_register : after { start 0x8905#16 with w1 := 0x0030#16 } (fun t => t.ip == 0x0030#16) = true := by
  decide
/-- V-C20. -/
theorem test_brnz_not_taken : after { start 0x8902#16 with w2 := 0x000C#16 } (fun t => t.ip == 0x0012#16) = true := by decide
/-- V-C23: fetched at FFFF, the second byte from 0000, IP wraps to 0001. -/
theorem test_fetch_at_the_end_of_the_bank : after { State.reset with ip := 0xFFFF#16 } (fun t => t.ip == 1#16) = true := by
  decide

/-- V-M2: the address register is overwritten by the data; bank 1. -/
theorem test_ld_same_register : after { (start 0x4100#16).setMemWord 1#2 0x1234#16 0xBEEF#16 with cr := 0x5000#16, w0 := 0x1234#16 }
    (fun t => t.w0 == 0xBEEF#16) = true := by decide
/-- V-M3: the second byte wraps in the same bank. -/
theorem test_ld_wraps : after { ((start 0x4102#16).setMemByte 2#2 0xFFFF#16 0x12#8).setMemByte 2#2 0#16 0x34#8 with w0 := 0xFFFF#16 }
    (fun t => t.w2 == 0x1234#16) = true := by decide
/-- V-M4. -/
theorem test_st_wraps : after { start 0x4201#16 with w0 := 0xFFFF#16, w1 := 0xBEEF#16 }
    (fun t => t.memByte 2#2 0xFFFF#16 == 0xBE#8 && t.memByte 2#2 0#16 == 0xEF#8 && t.memByte 1#2 0xFFFF#16 == 0#8) = true := by
  decide
/-- V-M8: a store to bank 0 is what the next fetch reads. -/
theorem test_st_into_code : after { start 0x4201#16 with cr := 0x1000#16, w0 := 0x0012#16, w1 := 0xFF00#16 }
    (fun t => t.fetch == 0xFF00#16 && decide (decodeTableWord 16 t.fetch.toNat = some .hlt)) = true := by decide
/-- V-M9: the first field is the source. -/
theorem test_cpy : after { start 0x430C#16 with w3 := 0x0014#16 } (fun t => t.w0 == 0x0014#16 && t.w3 == 0x0014#16) = true := by
  decide
/-- V-M11: odd pixel, low nibble. -/
theorem test_spxl_odd : after { (start 0x4C01#16).setMemByte 1#2 2#16 0x7C#8 with w0 := 0x123A#16, w1 := 5#16 }
    (fun t => t.memByte 1#2 2#16 == 0x7A#8) = true := by decide
/-- V-M12: even pixel, high nibble. -/
theorem test_spxl_even : after { (start 0x4C01#16).setMemByte 1#2 2#16 0x7C#8 with w0 := 0x123A#16, w1 := 4#16 }
    (fun t => t.memByte 1#2 2#16 == 0xAC#8) = true := by decide

/-- V-S2: SP wraps. -/
theorem test_push_wraps : after { start 0x4800#16 with w0 := 0xABCD#16, sp := 0xFFFE#16 }
    (fun t => t.sp == 0#16 && t.memWord 2#2 0#16 == 0xABCD#16) = true := by decide
/-- V-S4: SP wraps downward. -/
theorem test_pop_wraps : after { (start 0x4901#16).setMemWord 2#2 0#16 0x1122#16 with sp := 0#16 }
    (fun t => t.w1 == 0x1122#16 && t.sp == 0xFFFE#16) = true := by decide
/-- V-S7: an odd offset reads across two stack words. -/
theorem test_peek_odd_offset :
    after { ((start 0x4A81#16).setMemWord 2#2 0x8002#16 0x0007#16).setMemWord 2#2 0x8004#16 0x000E#16 with sp := 0x8004#16 }
      (fun t => t.w2 == 0x0700#16 && t.sp == 0x8004#16) = true := by decide
/-- V-S11: the address wraps below zero. -/
theorem test_csp_wraps : after { start 0x4B3F#16 with sp := 0x0010#16 } (fun t => t.w0 == 0xFFD1#16) = true := by decide

/-- V-Y1. -/
theorem test_dai : after { start 0xC000#16 with cr := 0x5108#16 } (fun t => t.cr == 0x5100#16) = true := by decide
/-- V-Y2. -/
theorem test_eai : after (start 0xC100#16) (fun t => t.cr == 0x9008#16) = true := by decide
/-- V-Y3. -/
theorem test_dti : after { start 0xC201#16 with cr := 0x9300#16 } (fun t => t.cr == 0x9100#16) = true := by decide
/-- V-Y7: only the lowest operand bit is read. -/
theorem test_eti : after (start 0xC3FF#16) (fun t => t.cr == 0x9200#16) = true := by decide
/-- V-Y11: all other bits kept. -/
theorem test_selb : after { start 0xC403#16 with cr := 0x930B#16 } (fun t => t.cr == 0xD30B#16) = true := by decide
/-- V-Y11 with `BANK_LSB = 12`. -/
theorem test_selb_other_placement :
    after { start 0xC403#16 with cr := 0x930B#16, cfg := { Config.micro16 with bankPlacement := .bits13to12 } }
      (fun t => t.cr == 0xB30B#16) = true := by decide
/-- V-Y14: the event carries IP at the BRK. -/
theorem test_brk_with_hook :
    after { start 0xFE00#16 with w0 := 0x000A#16, cfg := { Config.micro16 with hookPresent := true } }
      (fun t => t.ip == 0x0012#16 &&
        t.brkEvents == [⟨true, 0x0010#16, 0x9000#16, 0x8000#16, 0x000A#16, 0#16, 0#16, 0#16⟩]) = true := by decide
/-- V-Y15. -/
theorem test_brk_without_hook : after (start 0xFE00#16) (fun t => t == { start 0xFE00#16 with ip := 0x0012#16 }) = true := by
  decide
/-- V-Y13 (the wrap) and X3. -/
theorem test_hlt : after { State.reset.setMemWord 0#2 0xFFFE#16 0xFF00#16 with ip := 0xFFFE#16 }
    (fun t => t.running == false && t.ip == 0#16) = true := by decide
/-- V-Y21: the fault is recorded, IP stays, and no further cycle runs. -/
theorem test_illegal_opcode :
    after (start 0x09FF#16) (fun t => t.ip == 0x0010#16 && t.fault.map (·.instr) == some 0x09FF#16 && after t (fun _ => true) == false) =
      true := by decide

/-! ### Interrupts -/

/-- V-I6 and V-I7: of two ticks the first is latched. -/
theorem test_two_ticks :
    (({ State.reset with cr := 0x9308#16 } : State).events [.tick .timer0, .tick .timer1]).pending = some .timer0 ∧
    (({ State.reset with cr := 0x9308#16 } : State).events [.tick .timer1, .tick .timer0]).pending = some .timer1 := by decide
/-- V-I2 and V-I3: lost ticks. -/
theorem test_lost_ticks :
    (({ State.reset with cr := 0x5108#16 } : State).tick .timer1).pending = none ∧
    (({ State.reset with cr := 0x5100#16 } : State).tick .timer0).pending = none := by decide
/-- V-I9: the vector from bank 1, the stack in bank 2. -/
theorem test_entry :
    let t := ({ State.reset.setMemWord 1#2 0x7D04#16 0x0200#16 with
      cr := 0x9308#16, sp := 0x8004#16, ip := 0x1234#16, pending := some .timer1 } : State).poll
    t.cr = 0x9300#16 ∧ t.sp = 0x8006#16 ∧ t.memWord 2#2 0x8006#16 = 0x1234#16 ∧ t.ip = 0x0200#16 ∧ t.pending = none := by
  decide
/-- V-I13: the push is done before the vector is read. -/
theorem test_entry_pushes_before_reading_the_vector :
    let t := ({ State.reset.setMemWord 1#2 0x7D00#16 0x0040#16 with
      cr := 0x5108#16, sp := 0x7CFE#16, ip := 0x0300#16, pending := some .timer0 } : State).poll
    t.sp = 0x7D00#16 ∧ t.ip = 0x0300#16 := by decide
/-- P5, cycle 20: a tick before POLL is taken in the same cycle and the handler's first instruction runs. -/
theorem test_tick_before_poll_is_taken :
    after { ((State.reset.setMemWord 0#2 0x0040#16 0x0601#16).setMemWord 1#2 0x7D00#16 0x0040#16) with
        cr := 0x5108#16, ip := 0x0024#16, inputs := [{ beforePoll := [.tick .timer1, .tick .timer0], beforeExec := [] }] }
      (fun t => t.w1 == 1#16 && t.ip == 0x0042#16 && t.cr == 0x5100#16 && t.memWord 1#2 0x8002#16 == 0x0024#16) = true := by
  decide
/-- A forced halt before POLL: no instruction runs. -/
theorem test_forced_halt :
    after { start 0x0602#16 with inputs := [{ beforePoll := [.forceHalt], beforeExec := [] }] }
      (fun t => t.running == false && t.ip == 0x0010#16 && t.w2 == 0#16) = true := by decide

/-! ### `withFetchWord` and reset -/

theorem test_with_fetch_word : after (State.reset.withFetchWord 16 0x080A) (fun t => t.w0 == 0x000A#16 && t.ip == 2#16) = true := by
  decide
theorem test_reset_meets_the_invariant : State.reset.mem.wf = true ∧ State.reset.sp.getLsbD 0 = false := by decide

/-! ### Hypotheses that are met -/

theorem test_witness_DecodeEncodeRoundTrip : (Instr.set .w3 3 15).wellFormed = true ∧ (Instr.selb 0).wellFormed = true := by
  decide
theorem test_witness_DecoderReadsTheFormatBits :
    decodeWord 0xC3FF#16 = .ok (.eti .timer1) ∧ 0xC301#16 &&& decidingBits (.eti .timer1) = 0xC3FF#16 &&& decidingBits (.eti .timer1) :=
  ⟨rfl, rfl⟩
theorem test_witness_IllegalOpcodesAreTheListedOnes :
    illegalOpcodes (hiByte (start 0x0900#16).fetch).toNat ∧ illegalOpcodes (hiByte (start 0x4000#16).fetch).toNat ∧
    illegalOpcodes (hiByte (start 0xFD00#16).fetch).toNat ∧ ¬illegalOpcodes (hiByte (start 0x4100#16).fetch).toNat := by decide
theorem test_witness_StoreIsSeenByTheNextFetch :
    let s : State := { State.reset with cr := 0x1000#16, w0 := 2#16 }
    s.bank = 0#2 ∧ s.reg .w0 = s.ip + 2#16 := by decide
theorem test_witness_OnlyStoresChangeMemory :
    (∀ aa bb, Instr.nop ≠ .st aa bb) ∧ (∀ aa, Instr.nop ≠ .push aa) ∧ (∀ aa, Instr.nop ≠ .call aa) ∧
    (∀ aa bb, Instr.nop ≠ .spxl aa bb) ∧ ∃ t, exec .nop State.reset = .next t :=
  ⟨nofun, nofun, nofun, nofun, _, rfl⟩
theorem test_witness_InstructionPointerAdvances :
    (∃ t, exec (.jmp .w0) State.reset = .next t) ∧ ({ State.reset with ip := 0xFFFE#16 } : State).ip = 0xFFFE#16 ∧
    ({ State.reset with ip := 0xFFFF#16 } : State).ip = 0xFFFF#16 := ⟨⟨_, rfl⟩, rfl, rfl⟩
theorem test_witness_SetReplacesOneNibble : (3 < 4 ∧ 15 < 16) ∧ (0 < 4 ∧ 0 < 16) := by decide
theorem test_witness_PeekAndCspUseByteOffsets : 63 < 64 ∧ 0 < 64 := by decide
theorem test_witness_SelbSelectsTheBank :
    3 < 4 ∧ State.reset.cfg.bankPlacement = .bits15to14 ∧
    ({ State.reset with cfg := { Config.micro16 with bankPlacement := .bits13to12 } } : State).cfg.bankPlacement = .bits13to12 := by
  decide
/-- `exec` answers a next state: for the statements over every instruction. -/
theorem test_witness_exec_answers :
    (∃ t, exec (.pop .w0) State.reset = .next t) ∧ (∃ t, exec .hlt State.reset = .next t) ∧
    ((Instr.selb 3).wellFormed = true ∧ ∃ t, exec (.selb 3) State.reset = .next t) := ⟨⟨_, rfl⟩, ⟨_, rfl⟩, rfl, _, rfl⟩
/-- The literals of R10, for the statements that take them. -/
theorem test_witness_literals : State.reset.cfg.literals := by decide
theorem test_witness_pending : State.reset.cfg.literals ∧ ({ State.reset with pending := some .timer1 } : State).pending = some .timer1 := by
  decide
theorem test_witness_TickLatches :
    let s : State := { State.reset with cr := 0x9208#16 }
    s.cfg.literals ∧ s.running = true ∧ s.fault = none ∧ s.cr.getLsbD 3 = true ∧ s.cr.getLsbD (8 + Timer.timer1.id) = true ∧
      s.pending = none := by decide
theorem test_witness_FailedTicksAreLost :
    State.reset.gie = false ∧ ({ State.reset with running := false } : State).running = false ∧
    State.reset.tie .timer0 = false ∧ ({ State.reset with pending := some .timer0 } : State).pending ≠ none ∧
    (State.reset.raiseIllegalOpcode 0x0900#16).fault ≠ none := by decide
theorem test_witness_OneOfManyTicksIsLatched :
    let s : State := { State.reset with cr := 0x9308#16 }
    s.running = true ∧ s.fault = none ∧ s.gie = true ∧ s.pending = none := by decide
theorem test_witness_PollPrecedesFetch :
    State.reset.pending = none ∧ State.reset.fault = none ∧ State.reset.running = true ∧ State.reset.inputs = [] ∧
    State.reset.cycleTop.running = true ∧
    ({ State.reset with inputs := [{ beforePoll := [.tick .timer0], beforeExec := [.forceHalt] }] } : State).cycleTop.running = true := by
  decide
theorem test_witness_LatchedInterruptSurvivesDisable :
    let s : State := { start 0xC000#16 with cr := 0x5108#16, inputs := [{ beforePoll := [], beforeExec := [.tick .timer0] }] }
    s.cfg.literals ∧ s.running = true ∧ s.fault = none ∧ s.pending = none ∧ s.gie = true ∧ s.tie .timer0 = true ∧
      s.inputs = [{ beforePoll := [], beforeExec := [.tick .timer0] }] ∧ decodeTableWord 16 s.fetch.toNat = some .dai := by decide
theorem test_witness_InterruptsStayOffUntilEnabled :
    State.reset.cfg.literals ∧ State.reset.gie = false ∧ State.reset.pending = none ∧
    decodeTableWord 16 State.reset.fetch.toNat = some .nop ∧ after State.reset (fun _ => true) = true := by decide
/-- With one pending and with none. -/
theorem test_witness_ForcedHaltWinsOverInterrupt :
    let s : State := { State.reset with inputs := [{ beforePoll := [.forceHalt], beforeExec := [] }] }
    (s.fault = none ∧ .forceHalt ∈ (nextInputs s.inputs).beforePoll ∧ s.pending = none) ∧
      ({ s with pending := some .timer0 } : State).pending ≠ none := by decide
theorem test_witness_StoppedCoreChangesNothing :
    let s : State := { State.reset with running := false }
    s.fault = none ∧ s.running = false := by decide
theorem test_witness_IllegalOpcodeLatchesTheFault :
    (start 0x8100#16).fault = none ∧ (start 0x8100#16).cycleTop.running = true ∧
    decodeWord (start 0x8100#16).beforeFetch.fetch = .error (.illegalOpcode 0x81#8) := ⟨rfl, rfl, rfl⟩
theorem test_witness_LatchedFaultStays :
    (State.reset.raiseIllegalOpcode 0x0900#16).fault = some (State.reset.illegalRecord 0x0900#16) := by decide
theorem test_witness_StepRunsTheDecodedInstruction :
    let s : State := { start 0x0602#16 with inputs := [{ beforePoll := [.tick .timer0], beforeExec := [.tick .timer1] }] }
    s.fault = none ∧ ((s.setInputs s.inputs.tail).events (nextInputs s.inputs).beforePoll).running = true ∧
      decodeBytes [s.beforeFetch.memByte 0#2 s.beforeFetch.ip, s.beforeFetch.memByte 0#2 (s.beforeFetch.ip + 1#16)] =
        .ok (.inc .w2, []) := ⟨rfl, rfl, rfl⟩
theorem test_witness_WithFetchWordRunsTheWord : decodeTableWord 16 0xFF00 = some .hlt := by decide
theorem test_witness_StepIsMadeOfAtomicSteps : ∃ t, step State.reset = .next t := ⟨_, rfl⟩
/-- A tick, a Poll, a forced halt between Poll and Exec, and the Exec of that cycle. -/
theorem test_witness_EveryInterleavingIsASchedule :
    ∃ t, State.reset.inputs = [] ∧ AtomicRun .cycleTop State.reset .cycleTop t ∧ t.running = false ∧ t.ip = 2#16 :=
  ⟨_, rfl, .snoc (.snoc (.snoc (.snoc .refl (.event _ _ (.tick .timer0))) (.poll _ rfl rfl)) (.event _ _ .forceHalt))
    (.exec _ _ rfl), rfl, rfl⟩
theorem test_witness_StepKeepsTheInvariant : StateInv State.reset ∧ ∃ t, step State.reset = .next t :=
  ⟨by unfold StateInv; decide, _, rfl⟩
theorem test_witness_LaunchLoadsTheImage :
    (List.replicate 65536 0#8).length = 65536 ∧ (List.replicate (3 * 65536) 0xFF#8).length = 3 * 65536 ∧
    ([] : List Byte).length ≠ 65536 := ⟨List.length_replicate, List.length_replicate, by decide⟩

end Sys2Proof.Tests
end

section
/-! The proofs of the statements of spec/00_scope.md: the step and its atomic steps, the convention of `withFetchWord`, and the
stopped core. -/

namespace Sys2Proof.Proofs

open Sys2Proof Sys2Proof.Machine

/-! ### Fetch and decode (spec/00_scope.md R6) -/

/-- `Exec` of a state whose two bytes in bank 0 at IP decode is the `exec` of what they decode to. -/
theorem execStep_of_decodeBytes {s : State} {i : Instr} {rest : List Byte}
    (h : decodeBytes [s.memByte Config.codeBank s.ip, s.memByte Config.codeBank (s.ip + 1#16)] = .ok (i, rest)) :
    s.execStep = exec i s := by
  simp only [State.execStep, State.fetch, State.memWord, hiByte_joinBytes, loByte_joinBytes, h]

theorem execStep_of_decodeWord {s : State} {i : Instr} (h : decodeWord s.fetch = .ok i) : s.execStep = exec i s := by
  rw [execStep_eq, h]

theorem joinBytes_ofNat_div_256 (x : Nat) :
    joinBytes (BitVec.ofNat 8 (x / 256)) (BitVec.ofNat 8 x) = BitVec.ofNat 16 x := by
  rw [joinBytes_eq_ofNat]
  apply BitVec.eq_of_toNat_eq
  simp only [BitVec.toNat_ofNat]
  omega

/-- The table's reading of a word is the decoder's. -/
theorem decodeWord_of_decodeTableWord {nbits w : Nat} {i : Instr} (h : decodeTableWord nbits w = some i) :
    decodeWord (BitVec.ofNat 16 (w % 2 ^ nbits)) = .ok i := by
  simp only [decodeTableWord, decodeBytes, joinBytes_ofNat_div_256] at h
  cases hd : decodeWord (BitVec.ofNat 16 (w % 2 ^ nbits)) with
  | ok j => simpa [hd] using h
  | error r => simp [hd] at h

/-- A step of a running core without outside events and with nothing pending is `Exec` alone. -/
theorem step_quiet {s : State} (hf : s.fault = none) (hr : s.running = true) (hp : s.pending = none)
    (hi : nextInputs s.inputs = { beforePoll := [], beforeExec := [] }) :
    step s = (s.setInputs s.inputs.tail).execStep := by
  have htop : s.cycleTop.running = true := by simp [State.cycleTop, hi, hr]
  rw [step_of_running s hf htop, beforeFetch_quiet s hp hi]

/-- Settles O53: the two bytes decide what `Exec` does; the second clause is the step without outside events. -/
theorem stepRunsTheDecodedInstruction : Obligations.StepRunsTheDecodedInstruction := by
  refine ⟨?_, ?_⟩
  · rintro s u i hf hr rfl hd
    exact (step_of_running s hf hr).trans (execStep_of_decodeBytes hd)
  · intro s i hf hr hp hi hd
    have hself : s.setInputs s.inputs.tail = s := by rw [hi]; exact setInputs_nil_self s hi
    rw [step_quiet hf hr hp (by rw [hi]; rfl), hself]
    exact execStep_of_decodeBytes hd

/-! ### `withFetchWord` (log 3) -/

section PlaceWord

variable (s : State) (v : Word)

@[simp] theorem placeWord_fault : (s.placeWord v).fault = none := rfl
@[simp] theorem placeWord_running : (s.placeWord v).running = true := rfl
@[simp] theorem placeWord_pending : (s.placeWord v).pending = none := rfl
@[simp] theorem placeWord_nextInputs :
    nextInputs (s.placeWord v).inputs = { beforePoll := [], beforeExec := [] } := by
  simp only [State.placeWord, setMemWord_inputs]
  cases s.inputs <;> rfl
@[simp] theorem placeWord_inputs_tail : (s.placeWord v).inputs.tail = s.inputs.tail := by
  simp only [State.placeWord, setMemWord_inputs]
  cases s.inputs <;> rfl
@[simp] theorem placeWord_fetch : (s.placeWord v).fetch = v := setMemWord_memWord_same s Config.codeBank s.ip v

/-- A step of a state with a placed word is `Exec` of that state. -/
theorem step_placeWord : step (s.placeWord v) = ((s.placeWord v).setInputs s.inputs.tail).execStep := by
  rw [step_quiet (by simp) (by simp) (by simp) (by simp), placeWord_inputs_tail]

end PlaceWord

/-- Settles O54: the step is `Exec` alone, and the word it fetches is the one that was placed. -/
theorem withFetchWordRunsTheWord : Obligations.WithFetchWordRunsTheWord := by
  intro s nbits w i h
  have hfetch : ((s.withFetchWord nbits w).setInputs s.inputs.tail).fetch = BitVec.ofNat 16 (w % 2 ^ nbits) :=
    placeWord_fetch s _
  have hdecode : decodeWord ((s.withFetchWord nbits w).setInputs s.inputs.tail).fetch = .ok i := by
    rw [hfetch, decodeWord_of_decodeTableWord h]
  exact (step_placeWord s _).trans (execStep_of_decodeWord hdecode)

/-! ### The stopped core (spec/00_scope.md R9, spec/60_exceptions.md R208) -/

/-- Outside events do nothing to a stopped core, so the top of its cycle differs in the list of inputs only. -/
theorem cycleTop_of_stopped {s : State} (hr : s.running = false) : s.cycleTop = s.setInputs s.inputs.tail :=
  events_of_stopped _ _ hr

theorem step_of_not_running {s : State} (hf : s.fault = none) (hr : s.running = false) :
    step s = .next (s.setInputs s.inputs.tail) := by
  have htop := cycleTop_of_stopped hr
  rw [step_of_stopped s hf (by rw [htop]; exact hr), htop]

/-- Any number of steps of a stopped core only uses up its list of inputs. -/
theorem run_of_not_running (k : Nat) {s : State} (hf : s.fault = none) (hr : s.running = false) :
    Host.Core.run core k s = .next (s.setInputs (s.inputs.drop k)) := by
  induction k generalizing s with
  | zero => rfl
  | succ k ih =>
    have hrest : Host.Core.run core k (s.setInputs s.inputs.tail) = .next (s.setInputs (s.inputs.tail.drop k)) :=
      ih (s := s.setInputs s.inputs.tail) hf hr
    rw [core_run_succ _ _ k (step_of_not_running hf hr), hrest, List.drop_tail]

/-- Settles O49: only the list of inputs moves on, and the snapshot, memory and latches do not depend on it. -/
theorem stoppedCoreChangesNothing : Obligations.StoppedCoreChangesNothing := by
  intro k s hf hr
  exact ⟨_, run_of_not_running k hf hr, rfl, fun _ _ => rfl, rfl, hf, rfl⟩

/-! ### From steps to atomic steps (spec/00_scope.md R7) -/

theorem events_append (s : State) (es es' : List Event) : s.events (es ++ es') = (s.events es).events es' :=
  List.foldl_append

theorem atomicRun_trans {p q r : Phase} {s t u : State} (h : AtomicRun p s q t) (h' : AtomicRun q t r u) :
    AtomicRun p s r u := by
  induction h' with
  | refl => exact h
  | snoc _ hstep ih => exact ih.snoc hstep

/-- Outside events are atomic steps in either phase. -/
theorem atomicRun_events (p : Phase) (s : State) (es : List Event) : AtomicRun p s p (s.events es) := by
  induction es generalizing s with
  | nil => exact .refl
  | cons e es ih => exact atomicRun_trans (.snoc .refl (.event p s e)) (ih (s.event e))

/-- The atomic steps before FETCH of a cycle that runs. -/
theorem atomicRun_beforeFetch {s : State} (hf : s.fault = none) (hr : s.cycleTop.running = true) :
    AtomicRun .cycleTop (s.setInputs s.inputs.tail) .afterPoll s.beforeFetch :=
  have htop : AtomicRun .cycleTop (s.setInputs s.inputs.tail) .cycleTop s.cycleTop := atomicRun_events _ _ _
  have hpoll : AtomicStep .cycleTop s.cycleTop .afterPoll s.cycleTop.poll := .poll _ hr (by simpa using hf)
  atomicRun_trans (htop.snoc hpoll) (atomicRun_events _ _ _)

/-- Settles O55: a stopped core's step is its outside events, a running core's step is events, `Poll`, events, `Exec`. -/
theorem stepIsMadeOfAtomicSteps : Obligations.StepIsMadeOfAtomicSteps := by
  intro s t h
  obtain ⟨hf, ⟨-, rfl⟩ | ⟨hr, hexec⟩⟩ := step_next s t h
  · exact atomicRun_events _ _ _
  · exact (atomicRun_beforeFetch hf hr).snoc (.exec _ _ hexec)

/-! ### A run with a longer list of outside events (log 4) -/

@[simp] theorem poll_inputs (s : State) : s.poll.inputs = s.inputs := by
  obtain ⟨-, h⟩ | ⟨i, -, h⟩ := poll_cases s
  · rw [h]
  · rw [h, interruptEntry_inputs]

theorem core_run_of_fault (k : Nat) {s : State} {r : Fault} (h : step s = .fault r) :
    Host.Core.run core (k + 1) s = .fault r := by
  have h' : core.step s = .fault r := h
  simp only [Host.Core.run, h']

theorem core_run_of_refused (k : Nat) {s : State} {r : Refusal} (h : step s = .refused r) :
    Host.Core.run core (k + 1) s = .refused r := by
  have h' : core.step s = .refused r := h
  simp only [Host.Core.run, h']

section Inputs

variable (s : State) (c : CycleInputs) (x : List CycleInputs)

theorem cycleTop_setInputs_cons : (s.setInputs (c :: x)).cycleTop = (s.events c.beforePoll).setInputs x :=
  events_setInputs s x c.beforePoll

theorem beforeFetch_setInputs_cons :
    (s.setInputs (c :: x)).beforeFetch = ((s.events c.beforePoll).poll.events c.beforeExec).setInputs x := by
  show (s.setInputs (c :: x)).cycleTop.poll.events c.beforeExec = _
  rw [cycleTop_setInputs_cons, poll_setInputs, events_setInputs]

/-- A step uses the head of the list and hands on the tail, whatever it is. -/
theorem step_setInputs_cons : step (s.setInputs (c :: x)) = resultSetInputs x (step (s.setInputs [c])) := by
  cases hf : s.fault with
  | some r => rw [step_of_fault (s.setInputs (c :: x)) r hf, step_of_fault (s.setInputs [c]) r hf]; rfl
  | none =>
    cases hr : (s.events c.beforePoll).running with
    | false =>
      have htop (y) : (s.setInputs (c :: y)).cycleTop.running = false := by rw [cycleTop_setInputs_cons]; exact hr
      rw [step_of_stopped (s.setInputs (c :: x)) hf (htop x), step_of_stopped (s.setInputs [c]) hf (htop []),
        cycleTop_setInputs_cons, cycleTop_setInputs_cons]
      rfl
    | true =>
      have htop (y) : (s.setInputs (c :: y)).cycleTop.running = true := by rw [cycleTop_setInputs_cons]; exact hr
      rw [step_of_running (s.setInputs (c :: x)) hf (htop x), step_of_running (s.setInputs [c]) hf (htop []),
        beforeFetch_setInputs_cons, beforeFetch_setInputs_cons, execStep_setInputs, execStep_setInputs]
      cases ((s.events c.beforePoll).poll.events c.beforeExec).execStep <;> rfl

/-- The steps that use up a list of outside events do the same when more events follow, which are left at the end. -/
theorem run_setInputs_append (is : List CycleInputs) : Host.Core.run core is.length (s.setInputs (is ++ x)) =
    resultSetInputs x (Host.Core.run core is.length (s.setInputs is)) := by
  induction is generalizing s with
  | nil => rfl
  | cons c is ih =>
    have hlong : step (s.setInputs (c :: (is ++ x))) = _ := step_setInputs_cons s c (is ++ x)
    have hshort : step (s.setInputs (c :: is)) = _ := step_setInputs_cons s c is
    cases h : step (s.setInputs [c]) with
    | next v =>
      rw [h] at hlong hshort
      have hleft : Host.Core.run core (is.length + 1) (s.setInputs (c :: (is ++ x))) = _ := core_run_succ _ _ _ hlong
      have hright : Host.Core.run core (is.length + 1) (s.setInputs (c :: is)) = _ := core_run_succ _ _ _ hshort
      exact hleft.trans ((ih v).trans (congrArg (resultSetInputs x) hright.symm))
    | fault r =>
      rw [h] at hlong hshort
      exact (core_run_of_fault _ hlong).trans (congrArg (resultSetInputs x) (core_run_of_fault is.length hshort).symm)
    | refused r =>
      rw [h] at hlong hshort
      exact (core_run_of_refused _ hlong).trans (congrArg (resultSetInputs x) (core_run_of_refused is.length hshort).symm)

end Inputs

/-- When the outside events before the coming cycle's POLL leave the core running, the cycle with one entry of outside
events is POLL and `Exec` with the events in their places. -/
theorem step_setInputs_single {u v : State} (c : CycleInputs) (hu : u.inputs = []) (hf : u.fault = none)
    (hr : (u.events c.beforePoll).running = true)
    (h : ((u.events c.beforePoll).poll.events c.beforeExec).execStep = .next v) : step (u.setInputs [c]) = .next v := by
  have htop := cycleTop_setInputs_cons u c []
  have hfetch := beforeFetch_setInputs_cons u c []
  rw [setInputs_nil_self _ (by simpa using hu)] at htop
  rw [setInputs_nil_self _ (by simpa using hu)] at hfetch
  rw [step_of_running (u.setInputs [c]) hf (by rw [htop]; exact hr), hfetch, h]

/-- `Exec` brings no outside events. -/
theorem execStep_inputs_nil {s t : State} (hs : s.inputs = []) (h : s.execStep = .next t) : t.inputs = [] := by
  have hkeep := execStep_setInputs s []
  rw [setInputs_nil_self s hs, h] at hkeep
  have ht : t = t.setInputs [] := Host.Outcome.next.inj hkeep
  rw [ht, setInputs_inputs]

/-! ### From atomic steps to a list of outside events (spec/00_scope.md R7) -/

/-- Whole cycles of the machine lead from `s` to `u` under some list of outside events, which they use up. -/
def ReachedByCycles (s u : State) : Prop :=
  u.inputs = [] ∧ ∃ is : List CycleInputs, Host.Core.run core is.length (s.setInputs is) = .next u

/-- Where a machine that started in `s` between two cycles can stand: some whole cycles after `s`, outside events later;
or, within a cycle, a further POLL with the core running, and more outside events, later. -/
def Scheduled (s : State) : Phase → State → Prop
  | .cycleTop, t => ∃ u es, ReachedByCycles s u ∧ t = u.events es
  | .afterPoll, t => ∃ u es es', ReachedByCycles s u ∧ u.fault = none ∧ (u.events es).running = true ∧
      t = (u.events es).poll.events es'

theorem reachedByCycles_refl {s : State} (hs : s.inputs = []) : ReachedByCycles s s :=
  ⟨hs, [], congrArg Host.Outcome.next (setInputs_nil_self s hs)⟩

/-- One more cycle, whose outside events stand in one more entry of the list. -/
theorem reachedByCycles_snoc {s u v : State} (c : CycleInputs) (h : ReachedByCycles s u) (hf : u.fault = none)
    (hr : (u.events c.beforePoll).running = true)
    (hexec : ((u.events c.beforePoll).poll.events c.beforeExec).execStep = .next v) : ReachedByCycles s v := by
  obtain ⟨hu, is, hrun⟩ := h
  have hlong : Host.Core.run core is.length (s.setInputs (is ++ [c])) = .next (u.setInputs [c]) := by
    rw [run_setInputs_append, hrun]; rfl
  refine ⟨execStep_inputs_nil (by simpa using hu) hexec, is ++ [c], ?_⟩
  rw [List.length_append]
  exact run_snoc core _ _ _ _ hlong (step_setInputs_single c hu hf hr hexec)

theorem atomicStep_keeps_scheduled {s t u : State} {p q : Phase} (h : Scheduled s p t) (hstep : AtomicStep p t q u) :
    Scheduled s q u := by
  cases hstep with
  | event _ _ e =>
    cases p with
    | cycleTop =>
      obtain ⟨v, es, hv, rfl⟩ := h
      exact ⟨v, es ++ [e], hv, (events_append v es [e]).symm⟩
    | afterPoll =>
      obtain ⟨v, es, es', hv, hf, hr, rfl⟩ := h
      exact ⟨v, es, es' ++ [e], hv, hf, hr, (events_append _ es' [e]).symm⟩
  | poll _ hr hf =>
    obtain ⟨v, es, hv, rfl⟩ := h
    exact ⟨v, es, [], hv, by simpa using hf, hr, rfl⟩
  | exec _ _ hexec =>
    obtain ⟨v, es, es', hv, hf, hr, rfl⟩ := h
    exact ⟨u, [], reachedByCycles_snoc ⟨es, es'⟩ hv hf hr hexec, rfl⟩

theorem scheduled_of_atomicRun {s t : State} {p : Phase} (hs : s.inputs = []) (h : AtomicRun .cycleTop s p t) :
    Scheduled s p t := by
  induction h with
  | refl => exact ⟨s, [], reachedByCycles_refl hs, rfl⟩
  | snoc _ hstep ih => exact atomicStep_keeps_scheduled ih hstep

/-- Settles O56: every atomic step keeps `Scheduled`, which between two cycles is the statement. -/
theorem everyInterleavingIsASchedule : Obligations.EveryInterleavingIsASchedule := by
  intro s t hs h
  obtain ⟨u, es, ⟨hu, is, hrun⟩, ht⟩ := scheduled_of_atomicRun hs h
  exact ⟨is, es, u, hrun, hu, ht⟩

end Sys2Proof.Proofs
end

section
/-! The proofs of the statements of spec/10_state.md: what every instruction does to IP, SP, CR, `running` and the latches, and
the invariant of every step. -/

namespace Sys2Proof.Proofs

open Sys2Proof Sys2Proof.Machine

/-! ### The breakpoint event touches the list of events only (spec/44_system.md R166) -/

theorem emitBrk_eq (s : State) : ∃ es, s.emitBrk = { s with brkEvents := es } := by
  cases h : s.cfg.hookPresent with
  | false => exact ⟨s.brkEvents, emitBrk_without_hook s h⟩
  | true => exact ⟨_, emitBrk_with_hook s h⟩

/-- One field of the state that is not the list of events reads the same after a breakpoint event. -/
theorem emitBrk_field {α : Type} (s : State) (f : State → α)
    (hf : ∀ (t : State) (es : List Snapshot), f { t with brkEvents := es } = f t) : f s.emitBrk = f s := by
  obtain ⟨es, h⟩ := emitBrk_eq s
  rw [h, hf]

section EmitBrk

variable (s : State)

@[simp] theorem emitBrk_cfg : s.emitBrk.cfg = s.cfg := emitBrk_field s _ (fun _ _ => rfl)
@[simp] theorem emitBrk_ip : s.emitBrk.ip = s.ip := emitBrk_field s _ (fun _ _ => rfl)
@[simp] theorem emitBrk_cr : s.emitBrk.cr = s.cr := emitBrk_field s _ (fun _ _ => rfl)
@[simp] theorem emitBrk_sp : s.emitBrk.sp = s.sp := emitBrk_field s _ (fun _ _ => rfl)
@[simp] theorem emitBrk_mem : s.emitBrk.mem = s.mem := emitBrk_field s _ (fun _ _ => rfl)
@[simp] theorem emitBrk_pending : s.emitBrk.pending = s.pending := emitBrk_field s _ (fun _ _ => rfl)
@[simp] theorem emitBrk_running : s.emitBrk.running = s.running := emitBrk_field s _ (fun _ _ => rfl)
@[simp] theorem emitBrk_fault : s.emitBrk.fault = s.fault := emitBrk_field s _ (fun _ _ => rfl)
@[simp] theorem emitBrk_inputs : s.emitBrk.inputs = s.inputs := emitBrk_field s _ (fun _ _ => rfl)
@[simp] theorem emitBrk_freeIndex : s.emitBrk.freeIndex = s.freeIndex := emitBrk_field s _ (fun _ _ => rfl)

end EmitBrk

/-! ### Return from interrupt touches IP, SP and CR only (spec/41_control_flow.md R129) -/

section InterruptReturn

variable (s : State)

@[simp] theorem interruptReturn_cfg : s.interruptReturn.cfg = s.cfg := rfl
@[simp] theorem interruptReturn_pending : s.interruptReturn.pending = s.pending := rfl
@[simp] theorem interruptReturn_running : s.interruptReturn.running = s.running := rfl
@[simp] theorem interruptReturn_fault : s.interruptReturn.fault = s.fault := rfl
@[simp] theorem interruptReturn_brkEvents : s.interruptReturn.brkEvents = s.brkEvents := rfl
@[simp] theorem interruptReturn_inputs : s.interruptReturn.inputs = s.inputs := rfl
@[simp] theorem interruptReturn_freeIndex : s.interruptReturn.freeIndex = s.freeIndex := rfl

end InterruptReturn

/-! ### The instruction pointer (spec/10_state.md R26) -/

/-- A branch sends IP to its target when its condition holds, else past itself. -/
theorem branchIf_ip {c : Bool} {p : Prop} [Decidable p] (hc : c = true ↔ p) (s : State) (v : Word) :
    (s.branchIf c v).ip = (if p then some v else none).getD (s.ip + 2#16) := by
  by_cases h : p
  · rw [hc.mpr h, branchIf_true, if_pos h]; rfl
  · rw [Bool.eq_false_iff.mpr (mt hc.mp h), branchIf_false, if_neg h]; rfl

theorem exec_ip {i : Instr} {s t : State} (h : exec i s = .next t) :
    t.ip = (transferTarget s i).getD (s.ip + 2#16) := by
  cases i <;> cases h
  case bre => exact branchIf_ip beq_iff_eq s _
  case brne => exact branchIf_ip bne_iff_ne s _
  case brl => exact branchIf_ip BitVec.ult_iff_lt s _
  case brh => exact branchIf_ip BitVec.ult_iff_lt s _
  case brnz => exact branchIf_ip (by simp [BitVec.toNat_eq]) s _
  all_goals simp [transferTarget, State.writeAdvance, State.top]

/-- Settles O9: each instruction transfers control or advances, and past the end of the bank IP wraps. -/
theorem instructionPointerAdvances : Obligations.InstructionPointerAdvances := by
  refine ⟨fun i s t h => ?_, fun s h => ?_, fun s h => ?_⟩
  · rw [exec_ip h, ← ofNat_add_two]
    cases transferTarget s i <;> rfl
  · rw [advance_ip, h]; rfl
  · rw [advance_ip, h]; rfl

/-! ### SP, `running` and the latches (spec/10_state.md R36, R39, R40, R42) -/

/-- Settles O32: PUSH and CALL push, POP, RET and RETI drop, and no other instruction is made of an update of SP. -/
theorem onlyStackInstructionsMoveSp : Obligations.OnlyStackInstructionsMoveSp := by
  intro i s t h
  cases i <;> cases h
  case push | call => rfl
  case pop => exact setReg_sp s.drop _ s.top
  case ret | reti => rfl
  all_goals simp [State.writeAdvance, branchIf_eq]

/-- Settles O37: HLT is the one instruction made of an update of `running`, and it clears it. -/
theorem onlyHltClearsRunning : Obligations.OnlyHltClearsRunning := by
  intro i s t h
  cases i <;> cases h
  case hlt => simp
  all_goals simp [State.writeAdvance, branchIf_eq]

/-- Settles O39: no instruction is made of an update of any of these fields. -/
theorem noInstructionWritesThePendingPair : Obligations.NoInstructionWritesThePendingPair := by
  intro i s t h
  cases i <;> cases h
  all_goals simp [SameRun, State.writeAdvance, branchIf_eq]

/-! ### The bits of CR without a function (spec/10_state.md R33, decision D2) -/

/-- Two words agree outside a mask when they agree on every bit the mask leaves out. -/
theorem agree_outside {m x y : Word} (h : ∀ n, n < 16 → m.getLsbD n = false → y.getLsbD n = x.getLsbD n) :
    y &&& ~~~m = x &&& ~~~m := by
  apply BitVec.eq_of_getLsbD_eq
  intro n hn
  simp only [BitVec.getLsbD_and, BitVec.getLsbD_not, hn]
  cases hm : m.getLsbD n with
  | true => simp
  | false => rw [h n hn hm]

/-- The bits of CR that enable: GIE and each timer's own (spec/10_state.md R30, R32). -/
def EnableBit (c : Config) (k : Nat) : Prop := k = c.gieBit ∨ ∃ a : Timer, k = c.tieBit0 + a.id

theorem enableBit_gie (c : Config) : EnableBit c c.gieBit := .inl rfl
theorem enableBit_tie (c : Config) (a : Timer) : EnableBit c (c.tieBit0 + a.id) := .inr ⟨a, rfl⟩

section Unassigned

variable {c : Config} {n : Nat} (hn : n < 16) (h : (crFunctionMask c).getLsbD n = false)
include hn h

theorem unassigned_bit :
    n ≠ c.gieBit ∧ n ≠ c.tieBit0 ∧ n ≠ c.tieBit0 + 1 ∧ (bankMask c.bankPlacement).getLsbD n = false := by
  simpa only [crFunctionMask, BitVec.getLsbD_or, getLsbD_bitMask, hn, decide_true, Bool.true_and, Bool.or_eq_false_iff,
    decide_eq_false_iff_not, and_assoc] using h

theorem unassigned_ne_enable {k : Nat} (hk : EnableBit c k) : n ≠ k := by
  obtain ⟨hgie, htie0, htie1, -⟩ := unassigned_bit hn h
  obtain rfl | ⟨a, rfl⟩ := hk
  · exact hgie
  · cases a
    · exact htie0
    · exact htie1

theorem unassigned_outside_bank : (bankMask c.bankPlacement).getLsbD n = false := by
  obtain ⟨-, -, -, hbank⟩ := unassigned_bit hn h
  exact hbank

end Unassigned

/-- Setting an enable keeps the bits without a function. -/
theorem setBit_unassigned {c : Config} {k : Nat} (hk : EnableBit c k) (cr : Word) :
    setBit k cr &&& ~~~(crFunctionMask c) = cr &&& ~~~(crFunctionMask c) :=
  agree_outside fun n hn h => by simp [getLsbD_setBit, unassigned_ne_enable hn h hk]

/-- Clearing an enable keeps the bits without a function. -/
theorem clearBit_unassigned {c : Config} {k : Nat} (hk : EnableBit c k) (cr : Word) :
    clearBit k cr &&& ~~~(crFunctionMask c) = cr &&& ~~~(crFunctionMask c) :=
  agree_outside fun n hn h => by simp [getLsbD_clearBit, unassigned_ne_enable hn h hk]

/-- A bank number put in its place stays inside the bank field. -/
theorem bankNumber_inside (p : BankPlacement) :
    ∀ aa, aa < 4 → (BitVec.ofNat 16 aa <<< p.lsb) &&& ~~~(bankMask p) = 0#16 := by
  cases p <;> decide

theorem setBankField_unassigned (c : Config) {aa : Nat} (ha : aa < 4) (cr : Word) :
    setBankField c.bankPlacement aa cr &&& ~~~(crFunctionMask c) = cr &&& ~~~(crFunctionMask c) := by
  refine agree_outside fun n hn h => ?_
  have hbank := unassigned_outside_bank hn h
  have hnumber : (BitVec.ofNat 16 aa <<< c.bankPlacement.lsb).getLsbD n = false := by
    have hbit := congrArg (fun w : Word => w.getLsbD n) (bankNumber_inside c.bankPlacement aa ha)
    rwa [BitVec.getLsbD_and, BitVec.getLsbD_not, hbank, BitVec.getLsbD_zero, decide_eq_true hn, Bool.not_false,
      Bool.and_true, Bool.and_true] at hbit
  rw [setBankField, BitVec.getLsbD_or, BitVec.getLsbD_and, BitVec.getLsbD_not, hbank, hnumber]
  simp [hn]

/-- Settles O38: each writer of CR writes an enable or the bank field; the others do not touch CR. -/
theorem noInstructionWritesUnassignedCrBits : Obligations.NoInstructionWritesUnassignedCrBits := by
  intro i s t hwf h
  cases i <;> cases h
  case dai => exact clearBit_unassigned (enableBit_gie s.cfg) s.cr
  case eai | reti => exact setBit_unassigned (enableBit_gie s.cfg) s.cr
  case dti a => exact clearBit_unassigned (enableBit_tie s.cfg a) s.cr
  case eti a => exact setBit_unassigned (enableBit_tie s.cfg a) s.cr
  case selb aa => exact setBankField_unassigned s.cfg (of_decide_eq_true hwf) s.cr
  all_goals simp [State.writeAdvance, branchIf_eq]

/-! ### Every step keeps the invariant -/

theorem exec_keeps_memory_wf {i : Instr} {s t : State} (hmem : s.mem.wf = true) (h : exec i s = .next t) :
    t.mem.wf = true := by
  cases i <;> cases h
  case st => exact setMemWord_wf s _ _ _ hmem
  case spxl => exact setMemByte_wf s _ _ _ hmem
  case push | call => exact push_wf s _ hmem
  all_goals simpa [State.writeAdvance, branchIf_eq] using hmem

/-- Every instruction moves SP by a whole word, if at all. -/
theorem exec_keeps_sp_parity {i : Instr} {s t : State} (h : exec i s = .next t) :
    t.sp.getLsbD 0 = s.sp.getLsbD 0 := by
  rw [onlyStackInstructionsMoveSp i s t h]
  cases i
  case push | call => exact add_two_parity s.sp
  case pop | ret | reti => exact sub_two_parity s.sp
  all_goals rfl

/-- Without a hook no instruction emits an event. -/
theorem exec_brkEvents_of_no_hook {i : Instr} {s t : State} (hhook : s.cfg.hookPresent = false)
    (h : exec i s = .next t) : t.brkEvents = s.brkEvents := by
  cases i <;> cases h
  case brk => rw [emitBrk_without_hook s hhook]; rfl
  all_goals simp [State.writeAdvance, branchIf_eq]

theorem exec_keeps_inv {i : Instr} {s t : State} (hi : i.wellFormed = true) (hs : StateInv s)
    (h : exec i s = .next t) : StateInv t := by
  obtain ⟨hmem, hsp, hcr, hbrk⟩ := hs
  obtain ⟨-, hcfg, -⟩ := noInstructionWritesThePendingPair i s t h
  unfold StateInv
  rw [hcfg, exec_keeps_sp_parity h, noInstructionWritesUnassignedCrBits i s t hi h]
  exact ⟨exec_keeps_memory_wf hmem h, hsp, hcr, fun hhook => (exec_brkEvents_of_no_hook hhook h).trans (hbrk hhook)⟩

/-- What the decoder answers is well-formed: each number it reads fits the field it is read from. -/
theorem decodeWord_wellFormed {w : Word} {i : Instr} (h : decodeWord w = .ok i) : i.wellFormed = true := by
  have htwo (lo) : numberAt lo 2 (loByte w) < 4 := numberAt_lt lo 2 (loByte w)
  have hfour (lo) : numberAt lo 4 (loByte w) < 16 := numberAt_lt lo 4 (loByte w)
  have hsix (lo) : numberAt lo 6 (loByte w) < 64 := numberAt_lt lo 6 (loByte w)
  unfold decodeWord at h
  split at h <;> cases h <;> simp [Instr.wellFormed, htwo, hfour, hsix]

theorem execStep_keeps_inv {s t : State} (hs : StateInv s) (h : s.execStep = .next t) : StateInv t := by
  rw [execStep_eq] at h
  cases hd : decodeWord s.fetch with
  | ok i => rw [hd] at h; exact exec_keeps_inv (decodeWord_wellFormed hd) hs h
  | error r => rw [hd] at h; cases h; exact hs

theorem events_keep_inv {s : State} (es : List Event) (hs : StateInv s) : StateInv (s.events es) := by
  simpa [StateInv] using hs

theorem interruptEntry_keeps_inv {s : State} (i : Timer) (hs : StateInv s) : StateInv (s.interruptEntry i) := by
  obtain ⟨hmem, hsp, hcr, hbrk⟩ := hs
  refine ⟨interruptEntry_wf s i hmem, ?_, ?_, ?_⟩
  · rw [interruptEntry_sp, interruptEntry_cfg, add_two_parity, hsp]
  · rw [interruptEntry_cr, interruptEntry_cfg, clearBit_unassigned (enableBit_gie s.cfg), hcr]
  · rwa [interruptEntry_brkEvents, interruptEntry_cfg]

theorem poll_keeps_inv {s : State} (hs : StateInv s) : StateInv s.poll := by
  obtain ⟨-, h⟩ | ⟨i, -, h⟩ := poll_cases s
  · rwa [h]
  · rw [h]; exact interruptEntry_keeps_inv i hs

theorem cycleTop_keeps_inv {s : State} (hs : StateInv s) : StateInv s.cycleTop :=
  have htaken : StateInv (s.setInputs s.inputs.tail) := hs
  events_keep_inv _ htaken

/-- Settles O57: a step is outside events alone, or events, POLL, events and `Exec`; each of these keeps the invariant. -/
theorem stepKeepsTheInvariant : Obligations.StepKeepsTheInvariant := by
  intro s t hs h
  have htop := cycleTop_keeps_inv hs
  obtain ⟨-, ⟨-, rfl⟩ | ⟨-, hexec⟩⟩ := step_next s t h
  · exact htop
  · exact execStep_keeps_inv (events_keep_inv _ (poll_keeps_inv htop)) hexec

/-! ### The latched fault (spec/10_state.md R41) -/

theorem ticks_of_fault {s : State} (h : s.fault ≠ none) (is : List Timer) : s.events (is.map .tick) = s := by
  induction is with
  | nil => rfl
  | cons i is ih =>
    have htick : s.event (.tick i) = s := tick_lost s i fun ⟨_, hfault, _⟩ => h hfault
    rw [List.map_cons, events_cons, htick, ih]

/-- Settles O51: a cycle tests the latch first, and a tick latches nothing while a fault is latched. -/
theorem latchedFaultStays : Obligations.LatchedFaultStays := by
  intro s r h
  exact ⟨step_of_fault s r h, ticks_of_fault (by simp [h])⟩

/-! ### Reset (spec/10_state.md R43, R44) -/

/-- Settles O58, by evaluation of the reset state. -/
theorem resetValuesOfTheRegisters : Obligations.ResetValuesOfTheRegisters := by
  refine ⟨fun r => ?_, ?_⟩
  · cases r <;> rfl
  · decide

/-- Reset meets the invariant in every configuration, around every memory in its canonical form. -/
theorem resetWith_inv (cfg : Config) {m : Memory} (hm : m.wf = true) : StateInv (State.resetWith cfg m) :=
  ⟨hm, rfl, rfl, fun _ => rfl⟩

/-- Settles O59: the latches by evaluation, the invariant because no memory is listed. -/
theorem resetMeetsTheInvariant : Obligations.ResetMeetsTheInvariant :=
  ⟨rfl, rfl, rfl, rfl, resetWith_inv Config.micro16 rfl⟩

end Sys2Proof.Proofs
end

section
/-! The proofs of the statements of spec/20_memory.md: the word access, the fetch from the code bank, and which instructions
write memory. -/

namespace Sys2Proof.Proofs

open Sys2Proof Sys2Proof.Machine

/-! ### Word access and fetch (spec/20_memory.md R52, R53, R56, R58) -/

/-- A word read in numbers: 256 times the byte at the offset, plus the byte at the next one. -/
theorem memWord_eq_ofNat (s : State) (b : Bank) (a : Word) :
    s.memWord b a = BitVec.ofNat 16 (256 * (s.memByte b a).toNat + (s.memByte b (a + 1#16)).toNat) :=
  joinBytes_eq_ofNat _ _

theorem hiByte_memWord (s : State) (b : Bank) (a : Word) : hiByte (s.memWord b a) = s.memByte b a :=
  hiByte_joinBytes _ _

theorem loByte_memWord (s : State) (b : Bank) (a : Word) : loByte (s.memWord b a) = s.memByte b (a + 1#16) :=
  loByte_joinBytes _ _

/-- Settles O5: a word is its two bytes joined, and a word write is two byte writes. -/
theorem wordAccessIsBigEndian : Obligations.WordAccessIsBigEndian := by
  intro s b a v
  rw [ofNat_succ]
  exact ⟨memWord_eq_ofNat s b a, setMemWord_stored s b a v, setMemWord_memWord_same s b a v⟩

/-- Settles O6: FETCH is the word read at IP of bank 0, and no memory read looks at CR. -/
theorem fetchReadsTheCodeBank : Obligations.FetchReadsTheCodeBank := by
  intro s
  rw [ofNat_succ]
  exact ⟨hiByte_memWord s 0#2 s.ip, loByte_memWord s 0#2 s.ip, fun v => setCr_memWord s v 0#2 s.ip⟩

/-! ### A store and what reads it (spec/20_memory.md R59, R68; spec/42_load_store.md R140, R141) -/

theorem exec_st (s : State) (aa bb : Reg) :
    exec (.st aa bb) s = .next (s.setMemWord s.bank (s.reg aa) (s.reg bb)).advance := rfl

theorem exec_ld (s : State) (aa dd : Reg) :
    exec (.ld aa dd) s = .next (s.writeAdvance dd (s.memWord s.bank (s.reg aa))) := rfl

/-- Settles O7: the store's place and the place of the next fetch are the same word of bank 0. -/
theorem storeIsSeenByTheNextFetch : Obligations.StoreIsSeenByTheNextFetch := by
  intro s aa bb hbank haddr
  refine ⟨_, exec_st s aa bb, ?_⟩
  rw [hbank, haddr]
  exact setMemWord_memWord_same s 0#2 (s.ip + 2#16) (s.reg bb)

/-- Settles O25: ST keeps CR and the registers, so LD reads the very word that ST wrote. -/
theorem stThenLdReadsBack : Obligations.StThenLdReadsBack := by
  intro s aa bb dd
  refine ⟨_, _, exec_st s aa bb, exec_ld _ aa dd, ?_⟩
  obtain ⟨hdest, hother, -⟩ :=
    writeAdvance_writesRegister (s.setMemWord s.bank (s.reg aa) (s.reg bb)).advance dd (s.reg bb)
  simp only [advance_memWord, advance_bank, advance_reg, setMemWord_bank, setMemWord_reg, setMemWord_memWord_same]
  exact ⟨hdest, fun r hr => by simpa using hother r hr⟩

/-! ### Who writes memory (spec/20_memory.md R51) -/

theorem sameMemory_of_mem_eq {s t : State} (h : t.mem = s.mem) : SameMemory s t := fun b a => by
  rw [State.memByte, State.memByte, h]

/-- Settles O8: the four instructions made of a memory write are excluded; the others keep the memory itself. -/
theorem onlyStoresChangeMemory : Obligations.OnlyStoresChangeMemory := by
  intro i s t hst hpush hcall hspxl h
  apply sameMemory_of_mem_eq
  cases i <;> cases h
  case st aa bb => exact absurd rfl (hst aa bb)
  case push aa => exact absurd rfl (hpush aa)
  case call aa => exact absurd rfl (hcall aa)
  case spxl aa bb => exact absurd rfl (hspxl aa bb)
  all_goals simp [State.writeAdvance, branchIf_eq]

end Sys2Proof.Proofs
end

section
/-! The proofs of the statements of spec/30_encoding.md: the round trip, the bits the decoder reads, the illegal opcode bytes,
and one word of each opcode. -/

namespace Sys2Proof.Proofs

open Sys2Proof Sys2Proof.Machine

/-! ### Decoding an encoding (spec/30_encoding.md R80, R94) -/

/-- The decoder selects by the opcode byte, then reads each field back from the operand byte of the format. -/
theorem decodeWord_encodeWord {i : Instr} (hwf : i.wellFormed = true) : decodeWord (encodeWord i) = .ok i := by
  rw [decodeWord, encodeWord, hiByte_joinBytes, loByte_joinBytes]
  cases i
  case set aa yy xxxx =>
    obtain ⟨hyy, hxxxx⟩ : yy < 4 ∧ xxxx < 16 := by simpa [Instr.wellFormed] using hwf
    simp [Instr.opcode, Instr.operand, fields_operandS aa yy hyy xxxx hxxxx]
  case peek aa xx | csp aa xx =>
    simp [Instr.opcode, Instr.operand, fields_operandO aa xx (of_decide_eq_true hwf)]
  case selb aa => simp [Instr.opcode, Instr.operand, numberAt_operandR1 aa (of_decide_eq_true hwf)]
  all_goals simp [Instr.opcode, Instr.operand]

/-- The first two bytes decide the instruction, and the bytes behind them are left. -/
theorem decodeBytes_of_decodeWord {op b : Byte} {i : Instr} (rest : List Byte)
    (h : decodeWord (joinBytes op b) = .ok i) : decodeBytes (op :: b :: rest) = .ok (i, rest) := by
  rw [decodeBytes, h]

/-- Settles O2: the bytes of an instruction are those of its word, and its word decodes to it. -/
theorem decodeEncodeRoundTrip : Obligations.DecodeEncodeRoundTrip :=
  fun _ rest hwf => decodeBytes_of_decodeWord rest (decodeWord_encodeWord hwf)

/-- No two well-formed instructions have the same word. -/
theorem encodeWord_injective {i j : Instr} (hi : i.wellFormed = true) (hj : j.wellFormed = true)
    (h : encodeWord i = encodeWord j) : i = j :=
  Except.ok.inj <| calc
    .ok i = decodeWord (encodeWord i) := (decodeWord_encodeWord hi).symm
    _ = decodeWord (encodeWord j) := by rw [h]
    _ = .ok j := decodeWord_encodeWord hj

/-! ### The bits that decide (spec/30_encoding.md R81 to R88, R94) -/

theorem and_decidingBits (i : Instr) (w : Word) :
    w &&& decidingBits i = joinBytes (hiByte w) (loByte w &&& formatBits i) := by
  have hhi : hiByte w &&& 0xFF#8 = hiByte w := BitVec.and_allOnes
  calc w &&& decidingBits i
    _ = joinBytes (hiByte w) (loByte w) &&& joinBytes 0xFF#8 (formatBits i) := by rw [joinBytes_hi_lo, decidingBits]
    _ = joinBytes (hiByte w) (loByte w &&& formatBits i) := by rw [joinBytes_and, hhi]

/-- The opcode byte is among the bits that decide. -/
theorem hiByte_and_decidingBits (i : Instr) (w : Word) : hiByte (w &&& decidingBits i) = hiByte w := by
  rw [and_decidingBits, hiByte_joinBytes]

/-- Each arm of the decoder answers the instruction whose opcode byte selects it. -/
theorem opcode_of_decodeWord {w : Word} {i : Instr} (h : decodeWord w = .ok i) : i.opcode = hiByte w := by
  unfold decodeWord at h
  split at h <;> cases h <;> exact BitVec.eq_of_toNat_eq (Eq.symm ‹_›)

/-- Each arm of the decoder reads every operand bit of its format and no other. -/
theorem operand_of_decodeWord {w : Word} {i : Instr} (h : decodeWord w = .ok i) :
    i.operand = loByte w &&& formatBits i := by
  have hall : loByte w &&& 0xFF#8 = loByte w := BitVec.and_allOnes
  unfold decodeWord at h
  split at h <;> cases h <;> simp [Instr.operand, formatBits, operandN, operandR3_fields, operandR2_fields,
    operandR1_fields, operandR1_number, operandS_fields, operandO_fields, operandT_fields, hall]

theorem encodeWord_of_decodeWord {w : Word} {i : Instr} (h : decodeWord w = .ok i) :
    encodeWord i = w &&& decidingBits i := by
  rw [and_decidingBits, encodeWord, opcode_of_decodeWord h, operand_of_decodeWord h]

/-- The opcode byte alone selects the instruction, and so its format. -/
theorem decodeWord_of_opcode {w : Word} {i : Instr} (h : hiByte w = i.opcode) :
    ∃ j, decodeWord w = .ok j ∧ formatBits j = formatBits i := by
  rw [decodeWord, h]
  cases i <;> exact ⟨_, rfl, rfl⟩

/-- The words of a well-formed instruction are those that agree with its encoding on the bits that decide. -/
theorem decodeWord_eq_ok_iff {w : Word} {i : Instr} :
    decodeWord w = .ok i ↔ i.wellFormed = true ∧ encodeWord i = w &&& decidingBits i := by
  refine ⟨fun h => ⟨decodeWord_wellFormed h, encodeWord_of_decodeWord h⟩, fun ⟨hwf, hword⟩ => ?_⟩
  have hop : hiByte w = i.opcode := by rw [← hiByte_and_decidingBits i, ← hword, encodeWord, hiByte_joinBytes]
  obtain ⟨j, hj, hformat⟩ := decodeWord_of_opcode hop
  have hsame : encodeWord j = encodeWord i := by
    rw [encodeWord_of_decodeWord hj, hword, decidingBits, decidingBits, hformat]
  rw [hj, encodeWord_injective (decodeWord_wellFormed hj) hwf hsame]

/-- Settles O3: a word decodes to an instruction when it agrees with the encoding on the bits that decide. -/
theorem decoderReadsTheFormatBits : Obligations.DecoderReadsTheFormatBits := by
  intro w i h
  obtain ⟨hwf, hword⟩ := decodeWord_eq_ok_iff.mp h
  exact ⟨hwf, hword, fun w' hagree => decodeWord_eq_ok_iff.mpr ⟨hwf, hword.trans hagree.symm⟩⟩

/-! ### The illegal opcode bytes (spec/30_encoding.md R92; spec/60_exceptions.md R181) -/

/-- The bytes of the decoder's arms and the listed ranges share no byte and leave none out. -/
theorem decodeWord_error_iff (w : Word) : (∃ r, decodeWord w = .error r) ↔ illegalOpcodes (hiByte w).toNat := by
  have hbyte : (hiByte w).toNat < 256 := (hiByte w).isLt
  unfold decodeWord illegalOpcodes
  split
  case h_36 => exact iff_of_true ⟨_, rfl⟩ (by grind)
  all_goals exact iff_of_false nofun (by omega)

theorem decodeWord_joinBytes_error_iff (op b : Byte) :
    (∃ r, decodeWord (joinBytes op b) = .error r) ↔ illegalOpcodes op.toNat := by
  rw [decodeWord_error_iff, hiByte_joinBytes]

theorem toOption_isNone_iff {ε α : Type} (x : Except ε α) : x.toOption.isNone = true ↔ ∃ r, x = .error r := by
  cases x <;> simp [Except.toOption]

theorem isNone_decodeWord_ofNat {op : Nat} (h : op < 256) :
    (decodeWord (joinBytes (BitVec.ofNat 8 op) 0#8)).toOption.isNone = decide (illegalOpcodes op) := by
  rw [Bool.eq_iff_iff, toOption_isNone_iff, decodeWord_joinBytes_error_iff, BitVec.toNat_ofNat, Nat.mod_eq_of_lt h,
    decide_eq_true_iff]

/-- The listed ranges hold 221 of the 256 bytes. -/
theorem length_filter_illegalOpcodes : ((List.range 256).filter fun op => decide (illegalOpcodes op)).length = 221 := by
  decide +kernel

/-- An illegal word is not executed: `Exec` raises IllegalOpcode. -/
theorem execStep_of_illegal {s : State} (h : illegalOpcodes (hiByte s.fetch).toNat) :
    s.execStep = .next (s.raiseIllegalOpcode s.fetch) := by
  obtain ⟨r, hr⟩ := (decodeWord_error_iff s.fetch).mpr h
  rw [execStep_eq, hr]

/-- Settles O4: the decoder's refusals are the listed bytes, counted over all 256; raising latches the record, and a core
with a latched fault has no further cycle. -/
theorem illegalOpcodesAreTheListedOnes : Obligations.IllegalOpcodesAreTheListedOnes := by
  refine ⟨decodeWord_joinBytes_error_iff, ?_, fun s hs => ?_⟩
  · rw [List.filter_congr fun op hop => isNone_decodeWord_ofNat (List.mem_range.mp hop), length_filter_illegalOpcodes]
  · have hfault := raiseIllegalOpcode_fault s s.fetch
    exact ⟨_, s.illegalRecord s.fetch, rfl, execStep_of_illegal hs, hfault, step_of_fault _ _ hfault⟩

/-! ### One word of each opcode (spec/30_encoding.md R90) -/

/-- Settles O1, by evaluation of the decoder at each word. -/
theorem decodesSpecWords : Obligations.DecodesSpecWords := by
  unfold Obligations.DecodesSpecWords
  and_intros <;> rfl

end Sys2Proof.Proofs
end

section
/-! The proofs of the statements of spec/40_alu.md: the ALU and register instructions. -/

namespace Sys2Proof.Proofs

open Sys2Proof Sys2Proof.Machine

/-! ### Words as numbers modulo 2^16 (spec/40_alu.md R101, R102, R106, R107, R110) -/

theorem ofNat_toNat_add (w : Word) (x : Nat) :
    BitVec.ofNat 16 ((w.toNat + x) % 65536) = w + BitVec.ofNat 16 x := by
  apply BitVec.eq_of_toNat_eq
  simp [BitVec.toNat_add]

theorem ofInt_toNat_sub (w : Word) (x : Nat) :
    BitVec.ofInt 16 ((w.toNat : Int) - (x : Int)) = w - BitVec.ofNat 16 x := by
  rw [Int.sub_eq_add_neg, BitVec.ofInt_add, BitVec.ofInt_neg, BitVec.ofInt_natCast, BitVec.ofInt_natCast,
    BitVec.ofNat_toNat, BitVec.setWidth_eq, BitVec.sub_eq_add_neg]

theorem ofNat_allOnes_sub (w : Word) : BitVec.ofNat 16 (0xFFFF - w.toNat) = ~~~w := by
  apply BitVec.eq_of_toNat_eq
  rw [BitVec.toNat_not, BitVec.toNat_ofNat]
  omega

/-! ### The word of an instruction (spec/30_encoding.md R80, R83, R94) -/

/-- The word of a well-formed instruction decodes to it, so the encoder's side is enough. -/
theorem encodedAs_of_encodeWord {i : Instr} {w : Nat} (hwf : i.wellFormed = true)
    (h : encodeWord i = BitVec.ofNat 16 w) : EncodedAs i w :=
  ⟨h, h ▸ decodeWord_encodeWord hwf⟩

theorem toNat_operandR3 (cc aa bb : Reg) :
    (operandR3 cc aa bb).toNat = 16 * regNumber cc + 4 * regNumber aa + regNumber bb := by
  cases cc <;> cases aa <;> cases bb <;> rfl

/-- The word of an instruction of format R3 as a number: the opcode byte, then the three selectors. -/
theorem encodedAs_of_operandR3 {i : Instr} {cc aa bb : Reg} (hwf : i.wellFormed = true)
    (hoperand : i.operand = operandR3 cc aa bb) :
    EncodedAs i (256 * i.opcode.toNat + 16 * regNumber cc + 4 * regNumber aa + regNumber bb) := by
  apply encodedAs_of_encodeWord hwf
  rw [encodeWord, joinBytes_eq_ofNat, hoperand, toNat_operandR3]
  simp only [Nat.add_assoc]

/-! ### NOP and the instructions that write one register (spec/40_alu.md R100 to R107, R109, R110) -/

/-- Settles O10: the opcode byte 0x00 alone selects NOP, and NOP is ADVANCE. -/
theorem nopOnlyAdvances : Obligations.NopOnlyAdvances := by
  refine ⟨fun s => ⟨_, rfl, advance_movesIp s⟩, fun b => ?_⟩
  rw [decodeWord, hiByte_joinBytes]
  rfl

/-- Settles O11: addition and subtraction of words are those of the numbers modulo 2^16. -/
theorem addAndSubWrap : Obligations.AddAndSubWrap := by
  intro s cc aa bb
  rw [ofNat_toNat_add, ofInt_toNat_sub, BitVec.ofNat_toNat, BitVec.setWidth_eq]
  exact ⟨⟨_, rfl, writeAdvance_writesRegister s cc _⟩, ⟨_, rfl, writeAdvance_writesRegister s cc _⟩,
    encodedAs_of_operandR3 rfl rfl, encodedAs_of_operandR3 rfl rfl⟩

/-- Settles O12: each result bit of a word operation is that operation on the two bits at its place. -/
theorem andOrXorActBitwise : Obligations.AndOrXorActBitwise := by
  intro s cc aa bb
  exact ⟨⟨_, _, rfl, writeAdvance_writesRegister s cc _, fun _ _ => BitVec.getLsbD_and⟩,
    ⟨_, _, rfl, writeAdvance_writesRegister s cc _, fun _ _ => BitVec.getLsbD_or⟩,
    ⟨_, _, rfl, writeAdvance_writesRegister s cc _, fun _ _ => BitVec.getLsbD_xor⟩,
    encodedAs_of_operandR3 rfl rfl, encodedAs_of_operandR3 rfl rfl, encodedAs_of_operandR3 rfl rfl⟩

/-- Settles O13: DEC adds 65535, which is -1 modulo 2^16, and NOT subtracts from 0xFFFF. -/
theorem oneRegisterInstructions : Obligations.OneRegisterInstructions := by
  intro s aa
  have hdec : s.reg aa - 1#16 = s.reg aa + 65535#16 := by bv_omega
  rw [ofNat_toNat_add, ofNat_toNat_add, ofNat_allOnes_sub, ← hdec]
  exact ⟨⟨_, rfl, writeAdvance_writesRegister s aa _⟩, ⟨_, rfl, writeAdvance_writesRegister s aa _⟩,
    ⟨_, rfl, writeAdvance_writesRegister s aa _⟩, ⟨_, rfl, writeAdvance_writesRegister s aa _⟩⟩

/-! ### SET (spec/40_alu.md R108; spec/30_encoding.md R96) -/

theorem exec_set (s : State) (aa : Reg) (yy xxxx : Nat) :
    exec (.set aa yy xxxx) s = .next (s.writeAdvance aa (setNibble yy xxxx (s.reg aa))) := rfl

/-- Settles O14: SET writes its register with the placed nibble, whose bits are known one by one. -/
theorem setReplacesOneNibble : Obligations.SetReplacesOneNibble := by
  intro s aa yy xxxx hyy hxxxx
  exact ⟨_, _, exec_set s aa yy xxxx, writeAdvance_writesRegister s aa _,
    getLsbD_setNibble yy xxxx hyy hxxxx (s.reg aa)⟩

/-- Nibble `yy` of a number has its bits `4 * yy` to `4 * yy + 3`. -/
theorem testBit_nibble (k n : Nat) : (k / 16 ^ (n / 4) % 16).testBit (n % 4) = k.testBit n := by
  have hlow : n % 4 < 4 := Nat.mod_lt n (by decide)
  rw [show 16 = 2 ^ 4 from rfl, ← Nat.pow_mul, Nat.testBit_mod_two_pow, Nat.testBit_div_two_pow, Nat.mod_add_div,
    decide_eq_true hlow, Bool.true_and]

/-- Setting nibble `yy` to that of `k` copies those four bits of `k`. -/
theorem getLsbD_setNibble_of (k w : Word) {yy x n : Nat} (hn : n < 16) (hyy : yy < 4)
    (hx : x = k.toNat / 16 ^ yy % 16) :
    (setNibble yy x w).getLsbD n = if n / 4 = yy then k.getLsbD n else w.getLsbD n := by
  subst hx
  rw [getLsbD_setNibble yy _ hyy (Nat.mod_lt _ (by decide)) w n hn]
  split
  case isTrue h => subst h; exact testBit_nibble k.toNat n
  case isFalse => rfl

/-- Every bit lies in one of the four nibbles, so no bit of the old word is left. -/
theorem setNibble_all_four (k w : Word) :
    setNibble 0 (k.toNat % 16) (setNibble 1 (k.toNat / 16 % 16)
      (setNibble 2 (k.toNat / 256 % 16) (setNibble 3 (k.toNat / 4096) w))) = k := by
  apply BitVec.eq_of_getLsbD_eq
  intro n hn
  rw [getLsbD_setNibble_of k _ hn (by decide) (by omega), getLsbD_setNibble_of k _ hn (by decide) (by omega),
    getLsbD_setNibble_of k _ hn (by decide) (by omega), getLsbD_setNibble_of k w hn (by decide) (by omega)]
  have hnibble : n / 4 = 0 ∨ n / 4 = 1 ∨ n / 4 = 2 ∨ n / 4 = 3 := by omega
  rcases hnibble with h | h | h | h <;> simp [h]

@[simp] theorem writeAdvance_reg_same (s : State) (r : Reg) (v : Word) : (s.writeAdvance r v).reg r = v := by
  simp [State.writeAdvance]

/-- The second of two writes of one register is the one that stays. -/
theorem writeAdvance_writeAdvance (s : State) (r : Reg) (u v : Word) :
    (s.writeAdvance r u).writeAdvance r v = s.advance.writeAdvance r v := by
  cases r <;> rfl

/-- Settles O15: the four SETs are one write of `k` after three more ADVANCEs. -/
theorem fourSetsLoadAnyConstant : Obligations.FourSetsLoadAnyConstant := by
  intro s aa k
  refine ⟨_, _, _, _, exec_set s aa _ _, exec_set _ aa _ _, exec_set _ aa _ _, exec_set _ aa _ _, ?_⟩
  simp only [writeAdvance_reg_same, writeAdvance_writeAdvance, setNibble_all_four, true_and]
  obtain ⟨-, hother, hip, hrest⟩ := writeAdvance_writesRegister s.advance.advance.advance aa k
  have hip8 : s.advance.advance.advance.ip + 2#16 = s.ip + 8#16 := by simp [BitVec.add_assoc]
  exact ⟨fun r hr => by simpa using hother r hr, hip.trans hip8, hrest⟩

end Sys2Proof.Proofs
end

section
/-! The proofs of the statements of spec/41_control_flow.md: jumps, branches, CALL, RET and RETI. -/

namespace Sys2Proof.Proofs

open Sys2Proof Sys2Proof.Machine

/-! ### Branches (spec/41_control_flow.md R120 to R126, R130) -/

/-- A branch whose condition computes `p` only moves IP, to its target when `p` holds and else past itself. -/
theorem branchIf_movesIp_of_iff {c : Bool} {p : Prop} [Decidable p] (hc : c = true ↔ p) (s : State) (v : Word) :
    MovesIp (if p then v else s.ip + 2#16) s (s.branchIf c v) := by
  have hmoves := branchIf_movesIp s c v
  simp only [hc] at hmoves
  exact hmoves

/-- A branch whose condition computes the negation of `p` goes to its target when `p` fails. -/
theorem branchIf_movesIp_of_iff_not {c : Bool} {p : Prop} [Decidable p] (hc : c = true ↔ ¬p) (s : State) (v : Word) :
    MovesIp (if p then s.ip + 2#16 else v) s (s.branchIf c v) := by
  rw [← ite_not]
  exact branchIf_movesIp_of_iff hc s v

theorem word_beq_iff_toNat (x y : Word) : (x == y) = true ↔ x.toNat = y.toNat :=
  beq_iff_eq.trans BitVec.toNat_eq

theorem word_bne_iff_toNat (x y : Word) : (x != y) = true ↔ ¬x.toNat = y.toNat :=
  bne_iff_ne.trans (not_congr BitVec.toNat_eq)

/-- Settles O16: two words are equal when their numbers are, and the two branches differ in the negation only. -/
theorem breAndBrneCompareForEquality : Obligations.BreAndBrneCompareForEquality := by
  intro s cc aa bb
  exact ⟨⟨_, rfl, branchIf_movesIp_of_iff (word_beq_iff_toNat _ _) s (s.reg cc)⟩,
    ⟨_, rfl, branchIf_movesIp_of_iff_not (word_bne_iff_toNat _ _) s (s.reg cc)⟩,
    encodedAs_of_operandR3 rfl rfl, encodedAs_of_operandR3 rfl rfl⟩

/-- Settles O17: both branches test `BitVec.ult`, the order of the unsigned numbers, BRH with its operands swapped. -/
theorem brlAndBrhCompareUnsigned : Obligations.BrlAndBrhCompareUnsigned := by
  intro s cc aa bb
  exact ⟨⟨_, rfl, branchIf_movesIp_of_iff BitVec.ult_iff_lt s (s.reg cc)⟩,
    ⟨_, rfl, branchIf_movesIp_of_iff BitVec.ult_iff_lt s (s.reg cc)⟩⟩

/-- Settles O18: JMP is a jump, and BRNZ a branch on the register being other than the zero word. -/
theorem jmpAndBrnzSetIp : Obligations.JmpAndBrnzSetIp := by
  intro s aa cc
  exact ⟨⟨_, rfl, jump_movesIp s (s.reg aa)⟩,
    ⟨_, rfl, branchIf_movesIp_of_iff_not (word_bne_iff_toNat _ 0#16) s (s.reg cc)⟩⟩

/-! ### Setting GIE (spec/10_state.md R30; spec/41_control_flow.md R129) -/

theorem getLsbD_setBit_of_lt {n : Nat} (hn : n < 16) (k : Nat) (w : Word) :
    (setBit k w).getLsbD n = (decide (n = k) || w.getLsbD n) := by
  rw [getLsbD_setBit, decide_eq_true hn, Bool.true_and, Bool.or_comm]

/-- With the literals of R10, setting GIE is an OR with bit 3. -/
theorem setBit_gie_of_literals {c : Config} (hc : c.literals) (cr : Word) : setBit c.gieBit cr = cr ||| 0x0008#16 := by
  obtain ⟨hgie, -⟩ := hc
  rw [hgie]
  rfl

/-! ### CALL, RET and RETI (spec/41_control_flow.md R127 to R129) -/

theorem exec_call (s : State) (aa : Reg) :
    exec (.call aa) s = .next ((s.push (s.ip + 2#16)).jump (s.reg aa)) := rfl

theorem exec_ret (s : State) : exec .ret s = .next (s.drop.jump s.top) := rfl

theorem exec_reti (s : State) : exec .reti s = .next s.interruptReturn := rfl

@[simp] theorem jump_top (s : State) (v : Word) : (s.jump v).top = s.top := rfl

theorem push_sameLatches (s : State) (v : Word) : SameLatches s (s.push v) :=
  ⟨⟨push_cfg s v, push_fault s v, push_inputs s v, push_freeIndex s v⟩, push_pending s v, push_running s v,
    push_brkEvents s v⟩

/-- A jump after a store leaves the store as it is. -/
theorem wordStored_jump {s t : State} {b : Bank} {a v : Word} (h : WordStored b a v s t) (w : Word) :
    WordStored b a v s (t.jump w) := h

theorem sameLatches_jump {s t : State} (h : SameLatches s t) (w : Word) : SameLatches s (t.jump w) := h

theorem sameLatches_drop {s t : State} (h : SameLatches s t) : SameLatches s t.drop := h

/-- Settles O19: CALL is a push of the return address, whose stored bytes and frame are known, and a jump. -/
theorem callPushesReturnAddress : Obligations.CallPushesReturnAddress := by
  intro s aa
  rw [ofNat_add_two]
  have hstored := push_stored s (s.ip + 2#16)
  have hlatches := push_sameLatches s (s.ip + 2#16)
  refine ⟨_, exec_call s aa, ?_, ?_, wordStored_jump hstored _, fun r => ?_, ?_, sameLatches_jump hlatches _⟩
  all_goals simp

/-- Settles O20: RET is a drop and a jump to the word that was on top; RETI sets GIE besides. -/
theorem retAndRetiPopIp : Obligations.RetAndRetiPopIp := by
  intro s
  refine ⟨⟨_, exec_ret s, rfl, rfl, rfl, fun r => by simp, fun _ _ => rfl, sameLatches_refl s⟩,
    ⟨_, exec_reti s, rfl, rfl, fun n hn => ?_, fun hlit => ?_, fun r => by simp, fun _ _ => rfl, sameLatches_refl s⟩⟩
  · exact getLsbD_setBit_of_lt hn s.cfg.gieBit s.cr
  · exact setBit_gie_of_literals hlit s.cr

/-- Settles O21: CALL keeps CR, so RET pops from the bank of the push, where the return address is on top; only the push
wrote memory. -/
theorem callThenRetReturns : Obligations.CallThenRetReturns := by
  intro s aa
  obtain ⟨-, -, houtside⟩ := push_stored s (s.ip + 2#16)
  have hlatches := push_sameLatches s (s.ip + 2#16)
  refine ⟨_, _, exec_call s aa, exec_ret _, ?_, ?_, ?_, fun r => ?_, fun b a h => ?_, ?_⟩
  · rw [jump_ip, jump_top, push_top]
  · rw [jump_sp, drop_sp, jump_sp, push_sp, sp_add_sub]
  · simp
  · simp
  · simpa using houtside b a h
  · exact sameLatches_jump (sameLatches_drop (sameLatches_jump hlatches _)) _

end Sys2Proof.Proofs
end

section
/-! The proofs of the statements of spec/42_load_store.md: LD, ST, CPY and SPXL. -/

namespace Sys2Proof.Proofs

open Sys2Proof Sys2Proof.Machine

/-! ### Loads, copies and word stores (spec/42_load_store.md R140 to R142) -/

theorem exec_cpy (s : State) (aa bb : Reg) : exec (.cpy aa bb) s = .next (s.writeAdvance bb (s.reg aa)) := rfl

/-- Settles O22: LD and CPY are one register write each, LD of the word read in numbers. -/
theorem ldAndCpyWriteTheirDestination : Obligations.LdAndCpyWriteTheirDestination := by
  intro s aa bb
  rw [← memWord_eq_ofNat]
  exact ⟨⟨_, exec_ld s aa bb, writeAdvance_writesRegister s bb _⟩,
    ⟨_, exec_cpy s aa bb, writeAdvance_writesRegister s bb _⟩⟩

/-- ADVANCE after a store leaves the store as it is. -/
theorem wordStored_advance {s t : State} {b : Bank} {a v : Word} (h : WordStored b a v s t) :
    WordStored b a v s t.advance := h

/-- Settles O23: ST is a word store, whose two bytes and frame are known, and ADVANCE. -/
theorem stStoresOneWord : Obligations.StStoresOneWord := by
  intro s aa bb
  have hstored := setMemWord_stored s s.bank (s.reg aa) (s.reg bb)
  exact ⟨_, exec_st s aa bb, wordStored_advance hstored, rfl, fun r => by simp, rfl, rfl, sameLatches_refl s⟩

/-! ### Pixels (spec/42_load_store.md R143) -/

theorem getLsbD_append_nibbles_high (x y : BitVec 4) (n : Nat) : (x ++ y : Byte).getLsbD (n + 4) = x.getLsbD n :=
  BitVec.getLsbD_append.trans (by simp)

theorem getLsbD_append_nibbles_low (x y : BitVec 4) {n : Nat} (hn : n < 4) : (x ++ y : Byte).getLsbD n = y.getLsbD n :=
  BitVec.getLsbD_append.trans (if_pos hn)

theorem getLsbD_nibbleAt {k : Nat} (v : BitVec k) (lo : Nat) {n : Nat} (hn : n < 4) :
    (v.extractLsb' lo 4).getLsbD n = v.getLsbD (n + lo) := by
  rw [BitVec.getLsbD_extractLsb', decide_eq_true hn, Bool.true_and, Nat.add_comm]

/-- Bits 7:4 after one nibble of a byte is replaced. -/
theorem getLsbD_replaceNibble_high (high : Bool) (x : BitVec 4) (old : Byte) {n : Nat} (hn : n < 4) :
    (replaceNibble high x old).getLsbD (n + 4) = if high then x.getLsbD n else old.getLsbD (n + 4) := by
  cases high
  case false => exact (getLsbD_append_nibbles_high _ x n).trans (getLsbD_nibbleAt old 4 hn)
  case true => exact getLsbD_append_nibbles_high x _ n

/-- Bits 3:0 after one nibble of a byte is replaced. -/
theorem getLsbD_replaceNibble_low (high : Bool) (x : BitVec 4) (old : Byte) {n : Nat} (hn : n < 4) :
    (replaceNibble high x old).getLsbD n = if high then old.getLsbD n else x.getLsbD n := by
  cases high
  case false => exact getLsbD_append_nibbles_low _ x hn
  case true => exact (getLsbD_append_nibbles_low x _ hn).trans (getLsbD_nibbleAt old 0 hn)

/-- The byte of `W[bb]`'s pixel in bank 1, with that pixel's nibble replaced by the low nibble of `W[aa]`. -/
def pixelWritten (s : State) (aa bb : Reg) : Byte :=
  replaceNibble (pixelIsHigh s.cfg (s.reg bb)) ((s.reg aa).extractLsb' 0 4)
    (s.memByte 1#2 (pixelAddress (s.reg bb)))

theorem exec_spxl (s : State) (aa bb : Reg) :
    exec (.spxl aa bb) s =
      .next (s.setMemByte 1#2 (pixelAddress (s.reg bb)) (pixelWritten s aa bb)).advance := rfl

/-- A byte store changes its byte only. -/
theorem setMemByte_sameMemoryOutside (s : State) (b : Bank) (a : Word) (v : Byte) :
    SameMemoryOutsideByte b a s (s.setMemByte b a v) :=
  fun b' a' h => setMemByte_memByte_other s b b' a a' v h

/-- Settles O24: SPXL is one byte store in bank 1 and ADVANCE; each nibble of the stored byte is known bit by bit. -/
theorem spxlWritesOneNibble : Obligations.SpxlWritesOneNibble := by
  intro s aa bb
  refine ⟨_, exec_spxl s aa bb, ?_, rfl, fun r => by simp, rfl, rfl, sameLatches_refl s⟩
  simp only [← pixelAddress_eq, ← pixelIsHigh_eq, advance_memByte, setMemByte_memByte_same]
  refine ⟨fun n hn => ?_, fun n hn => ?_, setMemByte_sameMemoryOutside s 1#2 _ _⟩
  · rw [pixelWritten, getLsbD_replaceNibble_high _ _ _ hn, getLsbD_nibbleAt _ 0 hn, Nat.add_zero]
  · rw [pixelWritten, getLsbD_replaceNibble_low _ _ _ hn, getLsbD_nibbleAt _ 0 hn, Nat.add_zero]

end Sys2Proof.Proofs
end

section
/-! The proofs of the statements of spec/43_stack.md: push and pop, PUSH, POP, PEEK and CSP. -/

namespace Sys2Proof.Proofs

open Sys2Proof Sys2Proof.Machine

/-! ### The stack instructions as operations (spec/43_stack.md R152 to R155) -/

theorem exec_push (s : State) (aa : Reg) : exec (.push aa) s = .next (s.push (s.reg aa)).advance := rfl

theorem exec_pop (s : State) (aa : Reg) : exec (.pop aa) s = .next (s.drop.writeAdvance aa s.top) := rfl

theorem exec_peek (s : State) (aa : Reg) (xx : Nat) :
    exec (.peek aa xx) s = .next (s.writeAdvance aa (s.memWord s.bank (s.sp - BitVec.ofNat 16 xx))) := rfl

theorem exec_csp (s : State) (aa : Reg) (xx : Nat) :
    exec (.csp aa xx) s = .next (s.writeAdvance aa (s.sp - BitVec.ofNat 16 xx)) := rfl

/-! ### Frames -/

theorem sameLatches_advance {s t : State} (h : SameLatches s t) : SameLatches s t.advance := h

theorem sameLatches_trans {s t u : State} (h : SameLatches s t) (h' : SameLatches t u) : SameLatches s u := by
  obtain ⟨⟨hcfg, hfault, hinputs, hfree⟩, hpending, hrunning, hbrk⟩ := h
  obtain ⟨⟨hcfg', hfault', hinputs', hfree'⟩, hpending', hrunning', hbrk'⟩ := h'
  exact ⟨⟨hcfg'.trans hcfg, hfault'.trans hfault, hinputs'.trans hinputs, hfree'.trans hfree⟩,
    hpending'.trans hpending, hrunning'.trans hrunning, hbrk'.trans hbrk⟩

/-! ### PUSH, POP, PEEK and CSP (spec/43_stack.md R152 to R155) -/

/-- Settles O28: PUSH is a push, whose stored bytes and frame are known, and ADVANCE. -/
theorem pushStoresRegister : Obligations.PushStoresRegister := by
  intro s aa
  have hstored := push_stored s (s.reg aa)
  have hlatches := push_sameLatches s (s.reg aa)
  refine ⟨_, exec_push s aa, ?_, wordStored_advance hstored, ?_, fun r => ?_, ?_, sameLatches_advance hlatches⟩
  all_goals simp

/-- Settles O29: POP writes its destination with the old top after a drop, which moves SP only. -/
theorem popLoadsRegister : Obligations.PopLoadsRegister := by
  intro s aa
  obtain ⟨hval, hother, hip, hcr, hsp, hmem, hlatches⟩ := writeAdvance_writesRegister s.drop aa s.top
  exact ⟨_, exec_pop s aa, hsp, hval, fun r hr => (hother r hr).trans (drop_reg s r), hip, hcr, hmem,
    sameLatches_trans (sameLatches_drop (sameLatches_refl s)) hlatches⟩

/-- Settles O30: both write one register; the offset is subtracted from SP in bytes, modulo 2^16. -/
theorem peekAndCspUseByteOffsets : Obligations.PeekAndCspUseByteOffsets := by
  intro s aa xx _
  rw [ofInt_toNat_sub]
  exact ⟨⟨_, exec_peek s aa xx, writeAdvance_writesRegister s aa _⟩,
    ⟨_, exec_csp s aa xx, writeAdvance_writesRegister s aa _⟩⟩

/-- Settles O31: PUSH keeps CR, so POP reads the bank of the push, where the register's own value is on top; only the
push wrote memory. -/
theorem pushThenPopRestores : Obligations.PushThenPopRestores := by
  intro s aa
  obtain ⟨-, -, houtside⟩ := push_stored s (s.reg aa)
  have hlatches := sameLatches_advance (push_sameLatches s (s.reg aa))
  obtain ⟨u, hpop, hsp, hval, hother, hip, hcr, hmem, hlatches'⟩ := popLoadsRegister (s.push (s.reg aa)).advance aa
  refine ⟨_, u, exec_push s aa, hpop, fun r => ?_, ?_, hcr, ?_, fun b a h => ?_, sameLatches_trans hlatches hlatches'⟩
  · by_cases hr : r = aa
    · subst hr
      simpa using hval
    · simpa using hother r hr
  · simpa using hsp
  · simpa [BitVec.add_assoc] using hip
  · exact (hmem b a).trans (houtside b a h)

/-! ### Push and its users (spec/43_stack.md R150; spec/60_exceptions.md R190) -/

theorem poll_of_pending {s : State} {i : Timer} (h : s.pending = some i) : s.poll = s.interruptEntry i := by
  rw [State.poll, h]

/-- Clearing GIE leaves the bank selected, so an interrupt entry pushes IP where a push of `s` itself would. -/
theorem interruptEntry_stored {s : State} (hlit : s.cfg.literals) (i : Timer) :
    WordStored s.bank (s.sp + 2#16) s.ip s (s.interruptEntry i) := by
  have hpushed := push_stored (s.setCr (clearBit s.cfg.gieBit s.cr)) s.ip
  rw [bank_clearGie s hlit] at hpushed
  exact hpushed

/-- Settles O26: PUSH, CALL and interrupt entry are a push of the register, of the return address and of IP. -/
theorem pushOperation : Obligations.PushOperation := by
  refine ⟨fun s v => ?_, fun s aa => ?_, fun s aa => ?_, fun s i hlit hpending => ?_⟩
  · exact ⟨(ofNat_add_two s.sp).symm, push_stored s v⟩
  · obtain ⟨t, hexec, hsp, hstored, -⟩ := pushStoresRegister s aa
    exact ⟨t, hexec, hsp, hstored⟩
  · exact ⟨_, exec_call s aa, rfl, wordStored_jump (push_stored s (s.ip + 2#16)) _⟩
  · rw [poll_of_pending hpending]
    exact ⟨interruptEntry_sp s i, interruptEntry_stored hlit i⟩

/-! ### Pop and its users (spec/43_stack.md R151) -/

/-- Settles O27: POP, RET and RETI each take the top of the stack and drop it; a drop moves SP only. -/
theorem popOperation : Obligations.PopOperation := by
  intro s
  obtain ⟨⟨t, hret, hretIp, hretSp, -, -, hretMem, -⟩, ⟨u, hreti, hretiIp, hretiSp, -, -, -, hretiMem, -⟩⟩ :=
    retAndRetiPopIp s
  refine ⟨rfl, (ofInt_toNat_sub s.sp 2).symm, fun _ _ => rfl, fun aa => ?_, ⟨t, hret, hretIp, hretSp, hretMem⟩,
    ⟨u, hreti, hretiIp, hretiSp, hretiMem⟩⟩
  obtain ⟨v, hpop, hsp, hval, -, -, -, hmem, -⟩ := popLoadsRegister s aa
  exact ⟨v, hpop, hval, hsp, hmem⟩

end Sys2Proof.Proofs
end

section
/-! The proofs of the statements of spec/44_system.md: DAI, EAI, DTI, ETI, SELB, BRK and HLT. -/

namespace Sys2Proof.Proofs

open Sys2Proof Sys2Proof.Machine

/-! ### The system instructions as operations (spec/44_system.md R160 to R164, R166, R167) -/

theorem exec_dai (s : State) : exec .dai s = .next (s.setCr (clearBit s.cfg.gieBit s.cr)).advance := rfl

theorem exec_eai (s : State) : exec .eai s = .next (s.setCr (setBit s.cfg.gieBit s.cr)).advance := rfl

theorem exec_dti (s : State) (a : Timer) :
    exec (.dti a) s = .next (s.setCr (clearBit (s.cfg.tieBit0 + a.id) s.cr)).advance := rfl

theorem exec_eti (s : State) (a : Timer) :
    exec (.eti a) s = .next (s.setCr (setBit (s.cfg.tieBit0 + a.id) s.cr)).advance := rfl

theorem exec_selb (s : State) (aa : Nat) :
    exec (.selb aa) s = .next (s.setCr (setBankField s.cfg.bankPlacement aa s.cr)).advance := rfl

theorem exec_brk (s : State) : exec .brk s = .next s.emitBrk.advance := rfl

theorem exec_hlt (s : State) : exec .hlt s = .next (s.setRunning false).advance := rfl

/-! ### The enables (spec/44_system.md R160 to R163, R165) -/

theorem getLsbD_clearBit_eq_ite (k n : Nat) (w : Word) :
    (clearBit k w).getLsbD n = if n = k then false else w.getLsbD n := by
  rw [getLsbD_clearBit]
  split
  case isTrue h => rw [decide_eq_true h, Bool.not_true, Bool.and_false]
  case isFalse h => rw [decide_eq_false h, Bool.not_false, Bool.and_true]

theorem getLsbD_setBit_eq_ite {n : Nat} (hn : n < 16) (k : Nat) (w : Word) :
    (setBit k w).getLsbD n = if n = k then true else w.getLsbD n := by
  rw [getLsbD_setBit_of_lt hn]
  split
  case isTrue h => rw [decide_eq_true h, Bool.true_or]
  case isFalse h => rw [decide_eq_false h, Bool.false_or]

section Literals

variable {c : Config} (hc : c.literals) (a : Timer) (cr : Word)
include hc

/-- With the literals of R10, clearing GIE is an AND that leaves out bit 3. -/
theorem clearBit_gie_of_literals : clearBit c.gieBit cr = cr &&& 0xFFF7#16 := by
  obtain ⟨hgie, -⟩ := hc
  rw [hgie]
  rfl

/-- With the literals of R10, clearing a timer's enable is an AND that leaves out bit 8 or bit 9. -/
theorem clearBit_tie_of_literals :
    clearBit (c.tieBit0 + a.id) cr = cr &&& (if a = .timer0 then 0xFEFF#16 else 0xFDFF#16) := by
  obtain ⟨-, htie, -⟩ := hc
  rw [htie]
  cases a <;> rfl

/-- With the literals of R10, setting a timer's enable is an OR with bit 8 or bit 9. -/
theorem setBit_tie_of_literals :
    setBit (c.tieBit0 + a.id) cr = cr ||| (if a = .timer0 then 0x0100#16 else 0x0200#16) := by
  obtain ⟨-, htie, -⟩ := hc
  rw [htie]
  cases a <;> rfl

end Literals

/-- Settles O33: each of the four writes CR with one bit cleared or set, and the other bits of that word are known. -/
theorem enableInstructionsWriteOneBit : Obligations.EnableInstructionsWriteOneBit := by
  intro s a
  refine ⟨⟨_, _, exec_dai s, setCr_advance_writesCr s _, fun n _ => ?_, fun hlit => ?_⟩,
    ⟨_, _, exec_eai s, setCr_advance_writesCr s _, fun n hn => ?_, fun hlit => ?_⟩,
    ⟨_, _, exec_dti s a, setCr_advance_writesCr s _, fun n _ => ?_, fun hlit => ?_⟩,
    ⟨_, _, exec_eti s a, setCr_advance_writesCr s _, fun n hn => ?_, fun hlit => ?_⟩⟩
  · exact getLsbD_clearBit_eq_ite s.cfg.gieBit n s.cr
  · exact clearBit_gie_of_literals hlit s.cr
  · exact getLsbD_setBit_eq_ite hn s.cfg.gieBit s.cr
  · exact setBit_gie_of_literals hlit s.cr
  · exact getLsbD_clearBit_eq_ite (s.cfg.tieBit0 + a.id) n s.cr
  · exact clearBit_tie_of_literals hlit a s.cr
  · exact getLsbD_setBit_eq_ite hn (s.cfg.tieBit0 + a.id) s.cr
  · exact setBit_tie_of_literals hlit a s.cr

/-! ### The bank field (spec/44_system.md R164, R165; decision D1) -/

theorem ofNat_shiftLeft_eq_mul (x k : Nat) : (BitVec.ofNat 16 x : Word) <<< k = BitVec.ofNat 16 (x * 2 ^ k) := by
  apply BitVec.eq_of_toNat_eq
  rw [BitVec.toNat_shiftLeft, BitVec.toNat_ofNat, BitVec.toNat_ofNat, Nat.shiftLeft_eq, Nat.mod_mul_mod]

theorem getLsbD_bankMask_inside (p : BankPlacement) : ∀ i, i < 2 → (bankMask p).getLsbD (p.lsb + i) = true := by
  cases p <;> decide

theorem bankField_in_word (p : BankPlacement) {i : Nat} (hi : i < 2) : p.lsb + i < 16 := by
  cases p <;> simp only [BankPlacement.lsb] <;> omega

/-- Inside the bank field stands the bank number, and nothing of the old word. -/
theorem getLsbD_setBankField_inside (p : BankPlacement) (x : Nat) (cr : Word) {i : Nat} (hi : i < 2) :
    (setBankField p x cr).getLsbD (p.lsb + i) = x.testBit i := by
  have hword := bankField_in_word p hi
  have hi16 : i < 16 := by omega
  rw [setBankField, BitVec.getLsbD_or, BitVec.getLsbD_and, BitVec.getLsbD_not, getLsbD_bankMask_inside p i hi,
    BitVec.getLsbD_shiftLeft, Nat.add_sub_cancel_left, BitVec.getLsbD_ofNat]
  simp [hword, hi16]

/-- The bank field reads back what replaced it. -/
theorem extractLsb'_setBankField (p : BankPlacement) (x : Nat) (cr : Word) :
    (setBankField p x cr).extractLsb' p.lsb 2 = BitVec.ofNat 2 x := by
  apply BitVec.eq_of_getLsbD_eq
  intro i hi
  rw [BitVec.getLsbD_extractLsb', getLsbD_setBankField_inside p x cr hi, BitVec.getLsbD_ofNat]

theorem setBankField_bits15to14 (x : Nat) (cr : Word) :
    setBankField .bits15to14 x cr = (cr &&& 0x3FFF#16) ||| BitVec.ofNat 16 (x * 16384) :=
  congrArg ((cr &&& 0x3FFF#16) ||| ·) (ofNat_shiftLeft_eq_mul x 14)

theorem setBankField_bits13to12 (x : Nat) (cr : Word) :
    setBankField .bits13to12 x cr = (cr &&& 0xCFFF#16) ||| BitVec.ofNat 16 (x * 4096) :=
  congrArg ((cr &&& 0xCFFF#16) ||| ·) (ofNat_shiftLeft_eq_mul x 12)

/-- Settles O34: SELB writes CR with the bank field replaced; the bank selected is that field of the new CR. -/
theorem selbSelectsTheBank : Obligations.SelbSelectsTheBank := by
  intro s aa _
  refine ⟨_, _, exec_selb s aa, setCr_advance_writesCr s _, ?_, fun hplace => ?_, fun hplace => ?_⟩
  · exact extractLsb'_setBankField s.cfg.bankPlacement aa s.cr
  · rw [hplace, setBankField_bits15to14]
  · rw [hplace, setBankField_bits13to12]

/-! ### BRK and HLT (spec/44_system.md R166, R167) -/

@[simp] theorem emitBrk_reg (s : State) (r : Reg) : s.emitBrk.reg r = s.reg r :=
  emitBrk_field s (fun t => t.reg r) fun _ _ => by cases r <;> rfl

theorem emitBrk_brkEvents (s : State) :
    s.emitBrk.brkEvents = (if s.cfg.hookPresent then [s.snapshot] else []) ++ s.brkEvents := by
  cases h : s.cfg.hookPresent with
  | false => rw [emitBrk_without_hook s h]; rfl
  | true => rw [emitBrk_with_hook s h]; rfl

theorem emitBrk_sameRun (s : State) : SameRun s s.emitBrk :=
  ⟨emitBrk_cfg s, emitBrk_fault s, emitBrk_inputs s, emitBrk_freeIndex s⟩

theorem sameRun_advance {s t : State} (h : SameRun s t) : SameRun s t.advance := h

/-- Settles O35: BRK is a breakpoint event of the state as it stands, whose frame is known, and ADVANCE. -/
theorem brkEmitsTheSnapshot : Obligations.BrkEmitsTheSnapshot := by
  intro s
  have hmem : SameMemory s s.emitBrk.advance := sameMemory_of_mem_eq (by simp)
  refine ⟨_, exec_brk s, ?_, ?_, fun r => ?_, ?_, ?_, hmem, sameRun_advance (emitBrk_sameRun s), ?_, ?_⟩
  · exact emitBrk_brkEvents s
  all_goals simp

/-- Settles O36: HLT is an update of `running` alone, and ADVANCE. -/
theorem hltStopsTheCore : Obligations.HltStopsTheCore := by
  intro s
  exact ⟨_, exec_hlt s, rfl, rfl, fun r => by simp, rfl, rfl, fun _ _ => rfl, sameRun_refl s, rfl, rfl⟩

end Sys2Proof.Proofs
end

section
/-! The proofs of the statements of spec/60_exceptions.md: ticks, POLL and interrupt entry, the forced halt, the IllegalOpcode
fault, and that every cycle completes. -/

namespace Sys2Proof.Proofs

open Sys2Proof Sys2Proof.Machine

/-! ### Ticks (spec/60_exceptions.md R186 to R188) -/

theorem gie_of_literals {s : State} (h : s.cfg.literals) : s.gie = s.cr.getLsbD 3 := by
  obtain ⟨hgie, -⟩ := h
  rw [State.gie, hgie]

theorem tie_of_literals {s : State} (h : s.cfg.literals) (i : Timer) : s.tie i = s.cr.getLsbD (8 + i.id) := by
  obtain ⟨-, htie, -⟩ := h
  rw [State.tie, htie]

/-- Settles O40: with the literals of R10 the two bits are GIE and the timer's enable. -/
theorem tickLatches : Obligations.TickLatches := by
  intro s i hlit hr hf hgie htie hp
  rw [← gie_of_literals hlit] at hgie
  rw [← tie_of_literals hlit] at htie
  exact tick_latches s i ⟨hr, hf, hgie, htie, hp⟩

/-- Ticks that cannot latch do nothing, however many arrive. -/
theorem ticks_lost {s : State} (is : List Timer) (h : ∀ i, ¬Machine.tickLatches s i) : s.events (is.map .tick) = s := by
  induction is with
  | nil => rfl
  | cons i is ih =>
    have htick : s.event (.tick i) = s := tick_lost s i (h i)
    rw [List.map_cons, events_cons, htick, ih]

theorem not_tickLatches_of_gie {s : State} (h : s.gie = false) (i : Timer) : ¬Machine.tickLatches s i := by
  rintro ⟨-, -, hgie, -, -⟩
  simp [h] at hgie

theorem not_tickLatches_of_pending {s : State} (h : s.pending ≠ none) (i : Timer) : ¬Machine.tickLatches s i := by
  rintro ⟨-, -, -, -, hp⟩
  exact h hp

/-- Settles O41: each failing test is one of the five that a tick must pass, and GIE is one of them for both timers. -/
theorem failedTicksAreLost : Obligations.FailedTicksAreLost := by
  refine ⟨fun s i hfail => tick_lost s i ?_, fun s is hgie => ticks_lost is (not_tickLatches_of_gie hgie)⟩
  rintro ⟨hr, hf, hgie, htie, hp⟩
  simp [hr, hf, hgie, htie, hp] at hfail

theorem setPending_self {s : State} {p : Option Timer} (h : s.pending = p) : s.setPending p = s := by
  rw [← h]
  rfl

/-- Settles O42: the first enabled tick latches and with one pending the rest is lost; a tick that is not enabled leaves
the state for the next. -/
theorem oneOfManyTicksIsLatched : Obligations.OneOfManyTicksIsLatched := by
  intro s is hr hf hgie hp
  show s.events (is.map .tick) = s.setPending (is.find? fun i => s.tie i)
  induction is with
  | nil => exact (setPending_self hp).symm
  | cons i is ih =>
    rw [List.map_cons, events_cons]
    by_cases htie : s.tie i = true
    · have htick : s.event (.tick i) = s.setPending (some i) := tick_latches s i ⟨hr, hf, hgie, htie, hp⟩
      rw [htick, List.find?_cons_of_pos htie]
      exact ticks_lost is (not_tickLatches_of_pending (by simp))
    · have htick : s.event (.tick i) = s := tick_lost s i fun ⟨_, _, _, h, _⟩ => htie h
      rw [htick, List.find?_cons_of_neg htie, ih]

/-! ### POLL and interrupt entry (spec/60_exceptions.md R189 to R192, R195) -/

theorem poll_of_not_pending {s : State} (h : s.pending = none) : s.poll = s := by
  rw [State.poll, h]

theorem beforeFetch_cfg (s : State) : s.beforeFetch.cfg = s.cfg := by
  rw [State.beforeFetch, events_cfg, poll_cfg, cycleTop_cfg]

/-- Without outside events the cycle of a running core is POLL and `Exec`. -/
theorem step_of_no_inputs {s : State} (hf : s.fault = none) (hr : s.running = true) (hi : s.inputs = []) :
    step s = s.poll.execStep := by
  have htop : s.cycleTop = s := by
    rw [State.cycleTop, hi]
    exact setInputs_nil_self s hi
  rw [step_of_running s hf (by rw [htop]; exact hr), State.beforeFetch, htop, hi]
  rfl

/-- Settles O43: POLL by its two cases, the step by the form of a running cycle; outside events keep IP. -/
theorem pollPrecedesFetch : Obligations.PollPrecedesFetch := by
  refine ⟨fun _ => poll_of_not_pending, fun _ _ => poll_of_pending, fun _ => step_of_no_inputs, fun s hf hr => ?_⟩
  exact ⟨step_of_running s hf hr, events_ip _ _⟩

@[simp] theorem interruptEntry_memWord (s : State) (i : Timer) (b : Bank) (a : Word) :
    (s.interruptEntry i).memWord b a = (entryPushed s).memWord b a := by
  simp [State.memWord]

theorem vectorAddress_of_literals {c : Config} (h : c.literals) (i : Timer) :
    vectorAddress c i = if i = .timer0 then 0x7D00#16 else 0x7D04#16 := by
  obtain ⟨-, -, hbase, hstride⟩ := h
  rw [vectorAddress, hbase, hstride]
  cases i <;> rfl

theorem interruptEntry_sameRun (s : State) (i : Timer) : SameRun s (s.interruptEntry i) :=
  ⟨interruptEntry_cfg s i, interruptEntry_fault s i, interruptEntry_inputs s i, interruptEntry_freeIndex s i⟩

/-- Settles O44: each field after an interrupt entry; the vector is read from the memory that entry leaves, since nothing
writes memory after the push. -/
theorem interruptEntryEffect : Obligations.InterruptEntryEffect := by
  intro s i hlit hp
  rw [poll_of_pending hp, ← vectorAddress_of_literals hlit, interruptEntry_memWord]
  refine ⟨?_, interruptEntry_sp s i, interruptEntry_stored hlit i, interruptEntry_ip s i, interruptEntry_pending s i,
    interruptEntry_reg s i, interruptEntry_sameRun s i, interruptEntry_running s i, interruptEntry_brkEvents s i⟩
  rw [interruptEntry_cr, clearBit_gie_of_literals hlit]

/-- A bit set after it was cleared is set. -/
theorem setBit_clearBit (n : Nat) (cr : Word) : setBit n (clearBit n cr) = setBit n cr := by
  apply BitVec.eq_of_getLsbD_eq
  intro k hk
  rw [getLsbD_setBit_of_lt hk, getLsbD_setBit_of_lt hk, getLsbD_clearBit]
  cases decide (k = n) <;> simp

/-- The push left the interrupted address on top of the handler's stack. -/
theorem interruptEntry_top (s : State) (i : Timer) : (s.interruptEntry i).top = s.ip := by
  have hbank : (s.interruptEntry i).bank = (entryPushed s).bank := by simp [State.bank, entryPushed]
  rw [State.top, hbank, interruptEntry_memWord, interruptEntry_sp]
  exact push_top (s.setCr (clearBit s.cfg.gieBit s.cr)) s.ip

@[simp] theorem interruptReturn_memByte (s : State) (b : Bank) (a : Word) :
    s.interruptReturn.memByte b a = s.memByte b a := rfl

/-- Settles O45: RETI drops what entry pushed and jumps to it; only the push wrote memory. -/
theorem retiUndoesInterruptEntry : Obligations.RetiUndoesInterruptEntry := by
  intro s i hlit hp
  obtain ⟨-, -, houtside⟩ := interruptEntry_stored hlit i
  rw [poll_of_pending hp]
  refine ⟨_, exec_reti _, ?_, ?_, ?_, fun r => ?_, fun b a h => ?_, ?_⟩
  · rw [interruptReturn_ip, interruptEntry_top]
  · rw [interruptReturn_sp, interruptEntry_sp, sp_add_sub]
  · rw [interruptReturn_cr, interruptEntry_cfg, interruptEntry_cr, setBit_clearBit, setBit_gie_of_literals hlit]
  · rw [interruptReturn_reg, interruptEntry_reg]
  · rw [interruptReturn_memByte, houtside b a h]
  · rw [interruptReturn_pending, interruptEntry_pending]

/-! ### A latched interrupt and the instructions that disable (spec/60_exceptions.md R198) -/

/-- A tick that latches between POLL and FETCH is the only difference to a cycle without outside events. -/
theorem step_of_tick_after_poll {s : State} {i : Timer} (h : Machine.tickLatches s i)
    (hi : s.inputs = [{ beforePoll := [], beforeExec := [.tick i] }]) :
    step s = ((s.setInputs []).setPending (some i)).execStep := by
  have htick : (s.setInputs []).events [.tick i] = (s.setInputs []).setPending (some i) :=
    tick_latches (s.setInputs []) i h
  obtain ⟨hr, hf, -, -, hp⟩ := h
  have htop : s.cycleTop = s.setInputs [] := by rw [State.cycleTop, hi]; rfl
  have hpoll : (s.setInputs []).poll = s.setInputs [] := poll_of_not_pending hp
  rw [step_of_running s hf (by rw [htop]; exact hr), State.beforeFetch, htop, hpoll, hi]
  exact congrArg State.execStep htick

/-- DAI and DTI write CR with one of the timer's two enables cleared, and advance. -/
theorem exec_disable (s : State) {i : Timer} {j : Instr} (h : j = .dai ∨ j = .dti i) :
    ∃ v, exec j s = .next (s.setCr v).advance ∧ ((s.setCr v).gie && (s.setCr v).tie i) = false := by
  obtain rfl | rfl := h
  · exact ⟨_, exec_dai s, by simp [State.gie, getLsbD_clearBit]⟩
  · exact ⟨_, exec_dti s i, by simp [State.tie, getLsbD_clearBit]⟩

/-- Settles O46: the instruction runs with the interrupt latched and writes CR only; POLL then tests the pending pair and
no enable. -/
theorem latchedInterruptSurvivesDisable : Obligations.LatchedInterruptSurvivesDisable := by
  intro s i _ hr hf hp hgie htie hi hd
  obtain ⟨j, hj, hdecode⟩ : ∃ j, (j = .dai ∨ j = .dti i) ∧ decodeWord s.fetch = .ok j := by
    obtain hd | hd := hd
    · exact ⟨_, .inl rfl, hd⟩
    · exact ⟨_, .inr rfl, hd⟩
  obtain ⟨v, hexec, hoff⟩ := exec_disable ((s.setInputs []).setPending (some i)) hj
  have hstep : step s = exec j ((s.setInputs []).setPending (some i)) :=
    (step_of_tick_after_poll ⟨hr, hf, hgie, htie, hp⟩ hi).trans (execStep_of_decodeWord hdecode)
  exact ⟨_, hstep.trans hexec, rfl, hoff, rfl, step_of_no_inputs hf hr rfl⟩

/-! ### Interrupts stay off (spec/60_exceptions.md R185) -/

theorem events_pending_of_gie {s : State} (es : List Event) (h : s.gie = false) : (s.events es).pending = s.pending := by
  induction es generalizing s with
  | nil => rfl
  | cons e es ih =>
    rw [events_cons]
    cases e with
    | tick i =>
      have htick : s.event (.tick i) = s := tick_lost s i (not_tickLatches_of_gie h i)
      rw [htick, ih h]
    | forceHalt => exact ih h

/-- Below the bank field `setBankField` keeps every bit. -/
theorem getLsbD_setBankField_below (p : BankPlacement) (x : Nat) (cr : Word) {n : Nat} (hn : n < p.lsb) :
    (setBankField p x cr).getLsbD n = cr.getLsbD n := by
  rw [setBankField, bankMask, BitVec.getLsbD_or, BitVec.getLsbD_and, BitVec.getLsbD_not, BitVec.getLsbD_shiftLeft,
    BitVec.getLsbD_shiftLeft]
  have hword : n < 16 := by cases p <;> simp only [BankPlacement.lsb] at hn <;> omega
  simp [hn, hword]

/-- EAI and RETI are the only instructions that set GIE. -/
theorem exec_keeps_gie_clear {i : Instr} {s t : State} (hlit : s.cfg.literals) (hgie : s.gie = false) (heai : i ≠ .eai)
    (hreti : i ≠ .reti) (h : exec i s = .next t) : t.gie = false := by
  obtain ⟨hgieBit, htieBit, -⟩ := hlit
  have hbit : s.cr.getLsbD s.cfg.gieBit = false := hgie
  cases i <;> cases h
  case eai => exact absurd rfl heai
  case reti => exact absurd rfl hreti
  case dai | dti => simp [State.gie, getLsbD_clearBit, hbit]
  case eti a =>
    have hother : s.cfg.gieBit ≠ s.cfg.tieBit0 + a.id := by omega
    simp [State.gie, getLsbD_setBit, hbit, hother]
  case selb aa =>
    have hbelow : s.cfg.gieBit < s.cfg.bankPlacement.lsb := by
      rw [hgieBit]
      cases s.cfg.bankPlacement <;> decide
    simp [State.gie, getLsbD_setBankField_below _ _ _ hbelow, hbit]
  all_goals simp [State.gie, State.writeAdvance, branchIf_eq, hbit]

/-- `Exec` of any word but EAI and RETI leaves the interrupts off, an illegal word included. -/
theorem execStep_keeps_interrupts_off {s t : State} (hlit : s.cfg.literals) (hgie : s.gie = false)
    (hp : s.pending = none) (heai : decodeWord s.fetch ≠ .ok .eai) (hreti : decodeWord s.fetch ≠ .ok .reti)
    (h : s.execStep = .next t) : t.gie = false ∧ t.pending = none := by
  rw [execStep_eq] at h
  cases hd : decodeWord s.fetch with
  | ok i =>
    rw [hd] at h heai hreti
    obtain ⟨hpending, -⟩ := noInstructionWritesThePendingPair i s t h
    exact ⟨exec_keeps_gie_clear hlit hgie (fun e => heai (congrArg _ e)) (fun e => hreti (congrArg _ e)) h,
      hpending.trans hp⟩
  | error r =>
    rw [hd] at h
    cases h
    exact ⟨hgie, hp⟩

@[simp] theorem events_fetch (s : State) (es : List Event) : (s.events es).fetch = s.fetch := by
  simp [State.fetch, State.memWord]

theorem cycleTop_of_interrupts_off {s : State} (hgie : s.gie = false) (hp : s.pending = none) :
    s.cycleTop.gie = false ∧ s.cycleTop.pending = none :=
  have htaken : (s.setInputs s.inputs.tail).gie = false := hgie
  ⟨(events_gie _ _).trans htaken, (events_pending_of_gie _ htaken).trans hp⟩

/-- With GIE 0 and nothing pending the cycle fetches from a state that only the forced halts have changed. -/
theorem beforeFetch_of_interrupts_off {s : State} (hgie : s.gie = false) (hp : s.pending = none) :
    s.beforeFetch.gie = false ∧ s.beforeFetch.pending = none ∧ s.beforeFetch.fetch = s.fetch := by
  obtain ⟨htopGie, htopPending⟩ := cycleTop_of_interrupts_off hgie hp
  rw [State.beforeFetch, poll_of_not_pending htopPending]
  exact ⟨(events_gie _ _).trans htopGie, (events_pending_of_gie _ htopGie).trans htopPending,
    (events_fetch _ _).trans (events_fetch _ _)⟩

/-- Settles O47: no tick latches and POLL does nothing, so the cycle executes the word at IP, which does not set GIE. -/
theorem interruptsStayOffUntilEnabled : Obligations.InterruptsStayOffUntilEnabled := by
  intro s t hlit hgie hp heai hreti h
  obtain ⟨-, ⟨-, rfl⟩ | ⟨-, hexec⟩⟩ := step_next s t h
  · exact cycleTop_of_interrupts_off hgie hp
  · obtain ⟨hgie', hp', hfetch⟩ := beforeFetch_of_interrupts_off hgie hp
    rw [← beforeFetch_cfg] at hlit
    rw [← hfetch] at heai hreti
    exact execStep_keeps_interrupts_off hlit hgie' hp' heai hreti hexec

/-! ### The forced halt (spec/60_exceptions.md R193, R207) -/

/-- The halt stops the core, and what comes after it starts nothing. -/
theorem events_running_of_forceHalt {s : State} {es : List Event} (h : .forceHalt ∈ es) :
    (s.events es).running = false := by
  induction es generalizing s with
  | nil => cases h
  | cons e es ih =>
    rw [events_cons]
    obtain rfl | htail := List.mem_cons.mp h
    · rw [events_of_stopped (s.event .forceHalt) es rfl]
      rfl
    · exact ih htail

/-- Settles O48: the step of the halted core is the outside events alone, which touch the pending pair and `running`
only, and no pending pair that is set. -/
theorem forcedHaltWinsOverInterrupt : Obligations.ForcedHaltWinsOverInterrupt := by
  intro s hf hhalt
  have hstopped : s.cycleTop.running = false := events_running_of_forceHalt hhalt
  exact ⟨_, step_of_stopped s hf hstopped, hstopped, events_pending_of_latched (s.setInputs s.inputs.tail) _,
    cycleTop_ip s, cycleTop_cr s, cycleTop_sp s, cycleTop_reg s, sameMemory_of_mem_eq (cycleTop_mem s),
    (cycleTop_fault s).trans hf, events_brkEvents _ _, cycleTop_cfg s⟩

/-! ### The IllegalOpcode fault (spec/60_exceptions.md R181) -/

theorem execStep_of_decodeWord_error {s : State} {r : DecodeReject} (h : decodeWord s.fetch = .error r) :
    s.execStep = .next (s.raiseIllegalOpcode s.fetch) := by
  rw [execStep_eq, h]

/-- Settles O50: the step raises IllegalOpcode in the state it fetches from, and the next one finds the latched record. -/
theorem illegalOpcodeLatchesTheFault : Obligations.IllegalOpcodeLatchesTheFault := by
  rintro s _ r hf hr rfl hd
  have hfault := raiseIllegalOpcode_fault s.beforeFetch s.beforeFetch.fetch
  exact ⟨_, (step_of_running s hf hr).trans (execStep_of_decodeWord_error hd), rfl, rfl, rfl,
    raiseIllegalOpcode_reg _ _, fun _ _ => rfl, rfl, rfl, rfl, hfault, step_of_fault _ _ hfault⟩

/-! ### Every cycle completes (spec/60_exceptions.md R182) -/

/-- Every instruction has a next state, in every state. -/
theorem exec_answers (i : Instr) (s : State) : ∃ t, exec i s = .next t := by
  cases i <;> exact ⟨_, rfl⟩

theorem execStep_answers (s : State) : ∃ t, s.execStep = .next t ∧ t.cfg = s.cfg := by
  cases hd : decodeWord s.fetch with
  | ok i =>
    obtain ⟨t, hexec⟩ := exec_answers i s
    obtain ⟨-, hcfg, -⟩ := noInstructionWritesThePendingPair i s t hexec
    exact ⟨t, (execStep_of_decodeWord hd).trans hexec, hcfg⟩
  | error r => exact ⟨_, execStep_of_decodeWord_error hd, raiseIllegalOpcode_cfg s s.fetch⟩

/-- Settles O52: a stopped core's step is its outside events, and a running core's `Exec` always answers. -/
theorem everyCycleCompletes : Obligations.EveryCycleCompletes := by
  intro s hf
  cases hr : s.cycleTop.running with
  | false => exact ⟨_, step_of_stopped s hf hr, cycleTop_cfg s⟩
  | true =>
    obtain ⟨t, hexec, hcfg⟩ := execStep_answers s.beforeFetch
    exact ⟨t, (step_of_running s hf hr).trans hexec, hcfg.trans (beforeFetch_cfg s)⟩

end Sys2Proof.Proofs
end

section
/-! The proof of the statement of spec/70_reset_and_hazards.md: what a reset with an image puts into memory and registers. -/

namespace Sys2Proof.Proofs

open Sys2Proof Sys2Proof.Machine

/-! ### When a launch answers (spec/70_reset_and_hazards.md R222) -/

theorem launch_of_sizes (cfg : Config) {image initMem : List Byte} (himage : image.length = 65536)
    (hinit : initMem.length = 3 * 65536) :
    State.launch cfg image initMem = some (State.resetWith cfg (Memory.ofBytes 0 (image ++ initMem))) :=
  if_pos ⟨himage, hinit⟩

theorem launch_of_image_size_ne (cfg : Config) {image : List Byte} (initMem : List Byte)
    (himage : image.length ≠ 65536) : State.launch cfg image initMem = none :=
  if_neg fun ⟨hsize, _⟩ => himage hsize

/-! ### Where a bank stands in the loaded bytes (spec/70_reset_and_hazards.md R220, decision D12) -/

theorem cellKey_bank0 (a : Word) : cellKey 0#2 a = a.toNat := Nat.zero_add _

/-- Banks 1 to 3 follow bank 0, one after the other. -/
theorem cellKey_of_bank_ne_zero {b : Bank} (hb : b ≠ 0#2) (a : Word) :
    cellKey b a = 65536 + (65536 * (b.toNat - 1) + a.toNat) := by
  have hpos : b.toNat ≠ 0 := fun h => hb (BitVec.eq_of_toNat_eq h)
  simp only [cellKey, Config.bankSize]
  omega

/-- The byte of a cell after a reset around a loaded byte string is the one at the cell's key. -/
theorem resetWith_ofBytes_memByte (cfg : Config) {bytes : List Byte} {b : Bank} {a : Word}
    (h : cellKey b a < bytes.length) :
    some ((State.resetWith cfg (Memory.ofBytes 0 bytes)).memByte b a) = bytes[cellKey b a]? := by
  have hread := read_ofBytes bytes 0 (cellKey b a) h
  rw [Nat.zero_add] at hread
  rw [List.getElem?_eq_getElem h, ← hread]
  rfl

/-- Settles O60: the loaded string is the four banks in order of their keys, so it reads back bank by bank and is in
canonical form; every other field is the one of `State.resetWith`. -/
theorem launchLoadsTheImage : Obligations.LaunchLoadsTheImage := by
  refine fun cfg image initMem => ⟨fun himage hinit => ?_, launch_of_image_size_ne cfg initMem⟩
  have hsize : (image ++ initMem).length = Config.nbanks * Config.bankSize := by
    rw [List.length_append, himage, hinit]
    rfl
  have hread (b : Bank) (a : Word) := resetWith_ofBytes_memByte cfg (hsize ▸ cellKey_lt b a)
  have hwf : (Memory.ofBytes 0 (image ++ initMem)).wf = true :=
    wfFrom_ofBytes _ 0 (Nat.le_of_eq ((Nat.zero_add _).trans hsize))
  refine ⟨_, launch_of_sizes cfg himage hinit, fun a => ?bank0, fun b a hb => ?banks1to3, fun r => ?registers,
    rfl, rfl, rfl, rfl, rfl, rfl, rfl, resetWith_inv cfg hwf⟩
  case bank0 =>
    rw [hread, cellKey_bank0, List.getElem?_append_left (himage ▸ a.isLt)]
  case banks1to3 =>
    rw [hread, cellKey_of_bank_ne_zero hb, ← himage, List.getElem?_append_right (Nat.le_add_right _ _),
      Nat.add_sub_cancel_left]
  case registers => cases r <;> rfl

end Sys2Proof.Proofs
end
